-- ==== Sys2Proof/Word.lean ====
section
/-! DEFINITION. The word types of the block (00_scope.md R12, 20_memory.md R60). -/

namespace Sys2Proof

/-- A byte of the stream or of a buffer. -/
abbrev Byte := BitVec 8

/-- A host bus word, a register as the host sees it, or a command word. -/
abbrev Word := BitVec 32

/-- A byte offset from BLOCK_BASE on the host bus (20_memory.md R60, R64). -/
abbrev Addr := BitVec 24

end Sys2Proof
end

