-- ==== Sys2Proof/Syntax.lean ====
section
/-! DEFINITION. The nine commands (30_encoding.md R91, R120; spec/opcode_table.json). The operand fields a command ignores
(R121) are not part of the instruction (log 11). -/

namespace Sys2Proof

/-- One command of the opcode map. -/
inductive Instr where
  /-- NOP (44 R310) -/
  | nop
  /-- INIT pid (43 R240): the 13-bit target packet identifier. -/
  | init (pid : BitVec 13)
  /-- TSPARSE (40 R140) -/
  | tsparse
  /-- AFPARSE (41 R160) -/
  | afparse
  /-- AFSTUFF (41 R172) -/
  | afstuff
  /-- PESPARSE off (42 R200): the frame index of the PES header's first byte. -/
  | pesparse (off : Byte)
  /-- ABSORB (43 R245) -/
  | absorb
  /-- FRAME (44 R290) -/
  | frame
  /-- CLEAR mask (44 R300) -/
  | clear (mask : Byte)
  deriving DecidableEq, Repr

/-- Why a command word is illegal (30_encoding.md R91, R121; the order of the tests is 60_exceptions.md R326's). -/
inductive Illegal where
  /-- RSV0 (bits 7:4) or RSV1 (bits 31:29) is not 0. -/
  | reservedBits
  /-- OP is 9 to 15. -/
  | reservedOpcode (op : BitVec 4)
  /-- PESPARSE with IMM8 above 187. -/
  | offsetPastFrame (off : Byte)
  deriving DecidableEq, Repr

/-- The command names of the assembler syntax (30_encoding.md R131). -/
inductive Mnemonic where
  | NOP | INIT | TSPARSE | AFPARSE | AFSTUFF | PESPARSE | ABSORB | FRAME | CLEAR
  deriving DecidableEq, Repr

end Sys2Proof
end

