-- ==== Sys2Proof/WellFormed.lean ====
section
/-! DEFINITION. Which terms of Instr are commands. Every width is carried by the type; the one bound left is PESPARSE's
frame offset (30_encoding.md R91, R121; 42_pes_header.md R200). -/

namespace Sys2Proof

/-- A PESPARSE offset lies in the frame, 0 to 187 (30_encoding.md R121); every other term is a command. -/
def Instr.wellFormed : Instr → Bool
  | .pesparse off => decide (off.toNat ≤ 187)
  | .nop | .init _ | .tsparse | .afparse | .afstuff | .absorb | .frame | .clear _ => true

end Sys2Proof
end

