-- ==== Sys2Proof/Decode.lean ====
section
/-! DEFINITION. Decoding of a command word, total on every 32-bit word and rejecting by name (30_encoding.md R90, R91,
R121), the encoder, and the assembler's operand ranges (R131). -/

namespace Sys2Proof

/-- OP, bits 3:0 (30_encoding.md R90). -/
def fieldOp (w : Word) : BitVec 4 := w.extractLsb' 0 4

/-- RSV0, bits 7:4, must be 0 (30_encoding.md R90). -/
def fieldRsv0 (w : Word) : BitVec 4 := w.extractLsb' 4 4

/-- IMM8, bits 15:8 (30_encoding.md R90). -/
def fieldImm8 (w : Word) : Byte := w.extractLsb' 8 8

/-- PID13, bits 28:16 (30_encoding.md R90). -/
def fieldPid13 (w : Word) : BitVec 13 := w.extractLsb' 16 13

/-- RSV1, bits 31:29, must be 0 (30_encoding.md R90). -/
def fieldRsv1 (w : Word) : BitVec 3 := w.extractLsb' 29 3

/-- PESPARSE's operand test (30_encoding.md R91). -/
def decodePesparse (off : Byte) : Except Illegal Instr :=
  if off.toNat ≤ 187 then .ok (.pesparse off) else .error (.offsetPastFrame off)

/-- `decode(w)` of 30_encoding.md R91: the reserved-bit tests first, then OP, then PESPARSE's offset. -/
def decode (w : Word) : Except Illegal Instr :=
  if fieldRsv0 w ≠ 0 ∨ fieldRsv1 w ≠ 0 then .error .reservedBits
  else
    match (fieldOp w).toNat with
    | 0 => .ok .nop
    | 1 => .ok (.init (fieldPid13 w))
    | 2 => .ok .tsparse
    | 3 => .ok .afparse
    | 4 => .ok .afstuff
    | 5 => decodePesparse (fieldImm8 w)
    | 6 => .ok .absorb
    | 7 => .ok .frame
    | 8 => .ok (.clear (fieldImm8 w))
    | _ => .error (.reservedOpcode (fieldOp w))

/-- The command word `OP | IMM8 << 8 | PID13 << 16` with the reserved fields 0 (30_encoding.md R90). -/
def commandWord (op : BitVec 4) (imm8 : Byte) (pid13 : BitVec 13) : Word :=
  (0 : BitVec 3) ++ pid13 ++ imm8 ++ (0 : BitVec 4) ++ op

/-- The word of a command (30_encoding.md R120, R131); the fields it ignores are written 0. -/
def encode : Instr → Word
  | .nop => commandWord 0 0 0
  | .init pid => commandWord 1 0 pid
  | .tsparse => commandWord 2 0 0
  | .afparse => commandWord 3 0 0
  | .afstuff => commandWord 4 0 0
  | .pesparse off => commandWord 5 off 0
  | .absorb => commandWord 6 0 0
  | .frame => commandWord 7 0 0
  | .clear mask => commandWord 8 mask 0

/-- An operand of the assembler within its range, as a field of the given width (30_encoding.md R131). -/
def asmOperand (n max : Nat) (w : Nat) : Option (BitVec w) :=
  if n ≤ max then some (BitVec.ofNat w n) else none

/-- One line of the assembler syntax as a command (30_encoding.md R131): no command for a missing, spare or out-of-range
operand, which is an assembly error. -/
def asmInstr : Mnemonic → Option Nat → Option Instr
  | .NOP, none => some .nop
  | .INIT, some n => (asmOperand n 8191 13).map .init
  | .TSPARSE, none => some .tsparse
  | .AFPARSE, none => some .afparse
  | .AFSTUFF, none => some .afstuff
  | .PESPARSE, some n => (asmOperand n 187 8).map .pesparse
  | .ABSORB, none => some .absorb
  | .FRAME, none => some .frame
  | .CLEAR, some n => (asmOperand n 255 8).map .clear
  | .INIT, none | .PESPARSE, none | .CLEAR, none => none
  | .NOP, some _ | .TSPARSE, some _ | .AFPARSE, some _ | .AFSTUFF, some _ | .ABSORB, some _ | .FRAME, some _ => none

/-- The command word a line of the assembler syntax stands for (30_encoding.md R131). -/
def assemble (m : Mnemonic) (operand : Option Nat) : Option Word := (asmInstr m operand).map encode

/-- CLEAR's mask names `TS`, `AF`, `PES`, `FLAGS` (30_encoding.md R132); masks are joined by `|||`. -/
def maskTS : Byte := 1
/-- See `maskTS`. -/
def maskAF : Byte := 2
/-- See `maskTS`. -/
def maskPES : Byte := 4
/-- See `maskTS`. -/
def maskFLAGS : Byte := 8

/-- The command the decoder reads from an opcode-table word: the bus carries the 32 bits whole, bit 0 the least
significant, and bits above `nbits` are 0 (30_encoding.md R90, R122). -/
def decodeTableWord (nbits w : Nat) : Option Instr :=
  (decode (BitVec.ofNat 32 (w % 2 ^ nbits))).toOption

end Sys2Proof
end

