-- ==== Sys2Proof/Config.lean ====
section
/-! DEFINITION. What an implementation fixes (00_scope.md R11) and the free values (93_implementation_defined.md,
treatment "any value"). The free values are opaque constants: nothing can evaluate them. -/

namespace Sys2Proof

/-- The parameters the block's rules read (00_scope.md R11). BLOCK_BASE is not among them: no rule depends on it. -/
structure Params where
  /-- SYNC_BYTE, the value TSPARSE compares frame byte 0 with. -/
  syncByte : Byte
  /-- PES_BUF_CAP, the bytes of the PES buffer. -/
  pesBufCap : Nat
  deriving DecidableEq, Repr

/-- The bounds 00_scope.md R11 sets on PES_BUF_CAP. -/
abbrev Params.legal (p : Params) : Prop := 65724 ≤ p.pesBufCap ∧ p.pesBufCap ≤ 15728640

/-- `draw()` (00_scope.md section 5, 20_memory.md R70): the byte the k-th read past the frame returns. Free value. -/
opaque Config.freeByte : Nat → Byte

/-- Frame byte `i` as it stands after reset number `epoch` until the host writes it (20_memory.md R71). Free value. -/
opaque Config.frameAtReset : (epoch i : Nat) → Byte

/-- What an unspecified PES buffer byte reads as (20_memory.md R74, 93 I4): any function of the reset number, of what the
RAM has been written with, and of the index. Free value. -/
opaque Config.pesUnspecified : (epoch : Nat) → (ram : List Host.Cell) → (i : Nat) → Byte

/-- How far the capacity of the machine at hand lies above the lower bound of 00_scope.md R11. OPEN parameter. -/
opaque Config.pesBufCapExtra : Fin 15662917

/-- BLOCK_BASE, the platform's base address of the block's window (00_scope.md R11). OPEN parameter. -/
opaque Config.blockBase : Nat

/-- The platform address of a byte offset (20_memory.md R60, R64). No rule of the block reads it. -/
def Config.platformAddress (a : Addr) : Nat := Config.blockBase + a.toNat

/-- The parameters of the machine right after reset: SYNC_BYTE as 92_eei_decisions.md D12 gives it, PES_BUF_CAP left open
within its bounds. DESIGN CHOICE (log 2). -/
def Config.params : Params :=
  { syncByte := 0x47, pesBufCap := Config.pesBufCapExtra.val + 65724 }

end Sys2Proof
end

