-- ==== Sys2Proof/Machine/State.lean ====
section
/-! DEFINITION. The state of the block as plain data (10_state.md R20), the host's side of the bus, the reasons a step can
stop, and the state after reset (70_reset_and_hazards.md R350). -/

namespace Sys2Proof.Machine

/-- The TS register set: one decoded transport header (10_state.md R23). -/
structure TsRegs where
  sync : Byte
  tei : Bool
  pusi : Bool
  prio : Bool
  pid : BitVec 13
  sc : BitVec 2
  afc : BitVec 2
  cc : BitVec 4
  deriving DecidableEq, Repr

/-- Every field of the TS set 0 (10_state.md R23, R24). -/
def TsRegs.zero : TsRegs :=
  { sync := 0, tei := false, pusi := false, prio := false, pid := 0, sc := 0, afc := 0, cc := 0 }

/-- The AF register set: one decoded adaptation field (10_state.md R27). -/
structure AfRegs where
  ctrl : BitVec 2
  len : Byte
  flags : Byte
  pcrBase : BitVec 33
  pcrExt : BitVec 9
  pcr : BitVec 42
  opcrBase : BitVec 33
  opcrExt : BitVec 9
  opcr : BitVec 42
  splice : Byte
  privLen : Byte
  extLen : Byte
  stuff : Byte
  deriving DecidableEq, Repr

/-- Every field of the AF set 0, STUFF included (10_state.md R27, R30). -/
def AfRegs.zero : AfRegs :=
  { ctrl := 0, len := 0, flags := 0, pcrBase := 0, pcrExt := 0, pcr := 0, opcrBase := 0, opcrExt := 0, opcr := 0
    splice := 0, privLen := 0, extLen := 0, stuff := 0 }

/-- The PES register set: one decoded PES header (10_state.md R33). PREFIX is the field startPrefix. -/
structure PesRegs where
  startPrefix : BitVec 24
  streamId : Byte
  pktLen : BitVec 16
  hdrLen : BitVec 16
  hasExt : Bool
  flags1 : Byte
  flags2 : Byte
  hdl : Byte
  pts : BitVec 33
  dts : BitVec 33
  deriving DecidableEq, Repr

/-- Every field of the PES set 0 (10_state.md R33, R35). -/
def PesRegs.zero : PesRegs :=
  { startPrefix := 0, streamId := 0, pktLen := 0, hdrLen := 0, hasExt := false, flags1 := 0, flags2 := 0, hdl := 0
    pts := 0, dts := 0 }

/-- The assembler state (10_state.md R41). ACTIVE and LAST_CC are also STATUS[0] and STATUS[7:4] (R48). -/
structure AsmRegs where
  targetPid : BitVec 13
  active : Bool
  lastCc : BitVec 4
  bufLen : BitVec 32
  stuffTotal : BitVec 32
  deriving DecidableEq, Repr

/-- The assembler after reset (10_state.md R41). -/
def AsmRegs.zero : AsmRegs :=
  { targetPid := 0, active := false, lastCc := 0, bufLen := 0, stuffTotal := 0 }

/-- The outcomes a command can report (30_encoding.md R110, 60_exceptions.md R321). -/
inductive ResultCode where
  /-- No command has written RESULT since reset. -/
  | none
  | ok
  | started
  | continues
  | finished
  | lostContinuity
  | lostOutOfSync
  | lostNoPayload
  | unexpectedId
  | invalidSync
  | invalidLength
  | invalidStartCode
  /-- Assigned and never produced (92_eei_decisions.md D38). -/
  | invalidInput
  | bufferOverflow
  | illegalCommand
  deriving DecidableEq, Repr

/-- RESULT: CODE and VALUE (10_state.md R46). -/
structure Result where
  code : ResultCode
  value : BitVec 16
  deriving DecidableEq, Repr

/-- The frame buffer (20_memory.md R68). `cells` lists the bytes the host has written since the reset numbered `epoch`;
the others hold `Config.frameAtReset epoch i` (R71, log 4). -/
structure FrameBuf where
  cells : List Host.Cell
  epoch : Nat
  deriving DecidableEq, Repr

/-- The PES buffer RAM (20_memory.md R72). `cells` lists the bytes ABSORB has written since the reset numbered `epoch`
(R74, log 5). -/
structure PesBuf where
  cells : List Host.Cell
  epoch : Nat
  deriving DecidableEq, Repr

/-- What a read of the frame by the block can change (20_memory.md R70): STATUS.OOB, and how many draws were taken. -/
structure Port where
  oob : Bool
  draws : Nat
  deriving DecidableEq, Repr

/-- The width of a host access (20_memory.md R60). -/
inductive AccessSize where
  | byte
  | half
  | word
  deriving DecidableEq, Repr

/-- What the host does to the block: bus accesses (20_memory.md R60, R61) and the reset input (70 R351). -/
inductive HostEvent where
  | read (addr : Addr) (size : AccessSize)
  | write (addr : Addr) (size : AccessSize) (data : Word)
  | assertReset
  | releaseReset
  deriving DecidableEq, Repr

/-- The machine. The first nine fields are the spec's state (10_state.md R20; STATUS.OOB is port.oob, STATUS.OVF is ovf);
the last four are the model's own (INVENTORY.md, State). -/
structure State where
  ts : TsRegs
  af : AfRegs
  pes : PesRegs
  asm : AsmRegs
  result : Result
  ovf : Bool
  port : Port
  frame : FrameBuf
  pesBuf : PesBuf
  params : Params
  hostQueue : List HostEvent
  busData : Word
  inReset : Bool
  deriving DecidableEq, Repr

/-- The block has no fault that stops it: every fault of the spec is a code in RESULT, and the command completes
(60_exceptions.md R320; 93_implementation_defined.md, treatment `fault`). So this type has no constructor (log 12). -/
inductive Fault where
  deriving DecidableEq, Repr

/-- Why a step has no next state. -/
inductive Refusal where
  /-- Raised by exec for a command that has no meaning yet. Safe: the run stops. -/
  | notModelled (mnemonic : String)
  /-- Raised by a host access that is not an aligned 32-bit word (20_memory.md R60, 93 I7). Safe: the run stops. -/
  | unsupportedAccess (addr : Addr)
  /-- Raised by a host access while the reset input is asserted (70_reset_and_hazards.md R351, 93 I8). Safe: the run
  stops. -/
  | accessDuringReset
  deriving DecidableEq, Repr

/-- How every step and every meaning ends. -/
abbrev Out := Host.Outcome State Fault Refusal

/-- The machine right after the release of reset (70_reset_and_hazards.md R350): every register 0, RESULT.CODE NONE, both
RAMs unspecified. The values of the model's own fields are design choices (log 1 to log 7). -/
def State.reset : State :=
  { ts := TsRegs.zero
    af := AfRegs.zero
    pes := PesRegs.zero
    asm := AsmRegs.zero
    result := { code := .none, value := 0 }
    ovf := false
    port := { oob := false, draws := 0 }
    frame := { cells := [], epoch := 0 }
    pesBuf := { cells := [], epoch := 0 }
    params := Config.params
    hostQueue := []
    busData := 0
    inReset := false }

end Sys2Proof.Machine
end

