-- ==== Sys2Proof/Machine/Ops.lean ====
section
/-! DEFINITION. The named operations over the two buffers and the register sets: sparse memory, the block's read of a
frame byte (20_memory.md R70), Append (R73), `clear(SET)`, and `result CODE(v)`, which is the only way a command reports an
outcome (00_scope.md section 5; it stands for taking an exception, 60_exceptions.md R320 and R327, log 13). -/

namespace Sys2Proof.Machine

/-! ### Sparse memory -/

/-- The byte listed at an address; an unlisted address has no value of its own. -/
def Memory.read? : List Host.Cell → Nat → Option Byte
  | [], _ => none
  | (k, v) :: m, a => if k = a then some v else Memory.read? m a

/-- Lists a byte at an address, in address order. -/
def Memory.write : List Host.Cell → Nat → Byte → List Host.Cell
  | [], a, v => [(a, v)]
  | (k, w) :: m, a, v =>
    if a < k then (a, v) :: (k, w) :: m
    else if a = k then (a, v) :: m
    else (k, w) :: Memory.write m a v

/-- Every listed address is at least `lo` and the addresses rise strictly. -/
def Memory.risingFrom : Nat → List Host.Cell → Bool
  | _, [] => true
  | lo, (k, _) :: m => decide (lo ≤ k) && Memory.risingFrom (k + 1) m

/-- The canonical form: addresses strictly rising. An unlisted address reads as no value, so no entry can equal what an
unlisted address reads as. -/
def Memory.wf (m : List Host.Cell) : Bool := Memory.risingFrom 0 m

/-- Every listed address is below `bound`. -/
def Memory.below (bound : Nat) (m : List Host.Cell) : Bool := m.all fun c => decide (c.1 < bound)

/-! ### The frame buffer -/

/-- TS_PACKET_LEN (00_scope.md R10). -/
def frameLen : Nat := 188

/-- Frame byte `i` as it stands: what the host wrote, or the unknown byte reset left there (20_memory.md R68, R71). -/
def FrameBuf.byte (f : FrameBuf) (i : Nat) : Byte :=
  (Memory.read? f.cells i).getD (Config.frameAtReset f.epoch i)

/-- Sets frame byte `i` (a part of a host write, 20_memory.md R66). -/
def FrameBuf.setByte (f : FrameBuf) (i : Nat) (v : Byte) : FrameBuf :=
  { f with cells := Memory.write f.cells i v }

/-- A computation that reads the frame. -/
abbrev Reading (α : Type) := StateM Port α

/-- A draw (20_memory.md R70): any byte, fresh each time, and STATUS.OOB is set. -/
def drawByte : Reading Byte :=
  fun p => (Config.freeByte p.draws, { oob := true, draws := p.draws + 1 })

/-- `F(i)`, the block's read of frame byte `i` (20_memory.md R70). -/
def FrameBuf.get (f : FrameBuf) (i : Nat) : Reading Byte :=
  if i < frameLen then pure (f.byte i) else drawByte

/-! ### The PES buffer -/

/-- PES buffer byte `i` as the host reads it: the unit's byte below BUF_LEN, and an unspecified byte at or past it
(20_memory.md R72, R74). -/
def PesBuf.byte (b : PesBuf) (bufLen i : Nat) : Byte :=
  if i < bufLen then (Memory.read? b.cells i).getD (Config.pesUnspecified b.epoch b.cells i)
  else Config.pesUnspecified b.epoch b.cells i

/-- `BufWrite(i, v)` (20_memory.md R73). -/
def bufWrite (cells : List Host.Cell) (i : Nat) (v : Byte) : List Host.Cell := Memory.write cells i v

/-- The copy loop of `Append` (20_memory.md R73): `n` frame bytes from `src` to PES buffer indices from `dst` on. -/
def appendLoop (f : FrameBuf) : (n src dst : Nat) → List Host.Cell → Reading (List Host.Cell)
  | 0, _, _, cells => pure cells
  | n + 1, src, dst, cells => do
    let v ← f.get src
    appendLoop f n (src + 1) (dst + 1) (bufWrite cells dst v)

/-- `Append(src, n)` (20_memory.md R73): the copy, and BUF_LEN advanced by n. -/
def State.append (s : State) (src n : Nat) : State :=
  let r := appendLoop s.frame n src s.asm.bufLen.toNat s.pesBuf.cells s.port
  { s with
    pesBuf := { s.pesBuf with cells := r.1 }
    port := r.2
    asm := { s.asm with bufLen := s.asm.bufLen + BitVec.ofNat 32 n } }

/-! ### Registers -/

/-- `clear(TS)` (10_state.md R24). -/
def State.clearTs (s : State) : State := { s with ts := TsRegs.zero }

/-- `clear(AF)` (10_state.md R30). -/
def State.clearAf (s : State) : State := { s with af := AfRegs.zero }

/-- `clear(PES)` (10_state.md R35). -/
def State.clearPes (s : State) : State := { s with pes := PesRegs.zero }

/-- `result CODE(v)`: RESULT is written and the command ends (00_scope.md section 5; 10_state.md R47). Nothing is saved,
nothing is rolled back, and the block accepts the next command (60_exceptions.md R327, R328). -/
def State.finish (s : State) (r : Result) : State := { s with result := r }

/-- An illegal command (44_frame_and_control.md R312): ILLEGAL_COMMAND(0), nothing else changes. -/
def illegalCommand (s : State) : State := s.finish { code := .illegalCommand, value := 0 }

/-- Runs a command body, which leaves its code and value, and writes RESULT once at the end (10_state.md R47,
44_frame_and_control.md R290). -/
def complete (x : State × Result) : Out := .next (x.1.finish x.2)

end Sys2Proof.Machine
end

