-- ==== Sys2Proof/Machine/Operands.lean ====
section
/-! DEFINITION. The operand forms: the fields the block takes out of stream bytes (30_encoding.md R92 to R102, all most
significant bit first, 20_memory.md R76), the payload offset (R99), and the limits the source fixes (00_scope.md R10). -/

namespace Sys2Proof.Machine

/-! ### Fixed values (00_scope.md R10) -/

/-- TS_HEADER_LEN. -/
def tsHeaderLen : Nat := 4
/-- AF_MAX_LEN_WITH_PAYLOAD (control value 3). -/
def afMaxLenWithPayload : Nat := 183
/-- AF_MAX_LEN_NO_PAYLOAD (control value 2). -/
def afMaxLenNoPayload : Nat := 184
/-- PCR_MULT. -/
def pcrMult : Nat := 300
/-- PES_START_CODE. -/
def pesStartCode : BitVec 24 := 0x000001
/-- PES_BASIC_HDR_LEN. -/
def pesBasicHdrLen : Nat := 6
/-- PES_EXT_FIXED_LEN. -/
def pesExtFixedLen : Nat := 3
/-- PES_EXT_MIN_PKT_LEN. -/
def pesExtMinPktLen : Nat := 3
/-- PES_AV_ID_LO. -/
def pesAvIdLo : Byte := 0xC0
/-- PES_AV_ID_HI. -/
def pesAvIdHi : Byte := 0xEF

/-! ### The transport header (30_encoding.md R92, R93) -/

/-- The TS fields of header bytes 1 to 3, with the sync byte. -/
def tsFields (sync b1 b2 b3 : Byte) : TsRegs :=
  { sync := sync
    tei := b1.getLsbD 7
    pusi := b1.getLsbD 6
    prio := b1.getLsbD 5
    pid := b1.extractLsb' 0 5 ++ b2
    sc := b3.extractLsb' 6 2
    afc := b3.extractLsb' 4 2
    cc := b3.extractLsb' 0 4 }

/-! ### The adaptation field (30_encoding.md R95 to R97) -/

/-- BASE of a 6-byte clock field: p0 ‖ p1 ‖ p2 ‖ p3 ‖ p4[7] (30_encoding.md R97; 90_conflicts.md C1). -/
def clockBase (p0 p1 p2 p3 p4 : Byte) : BitVec 33 := p0 ++ p1 ++ p2 ++ p3 ++ p4.extractLsb' 7 1

/-- EXT of a 6-byte clock field: p4[0] ‖ p5; p4[6:1] is ignored (30_encoding.md R97). -/
def clockExt (p4 p5 : Byte) : BitVec 9 := p4.extractLsb' 0 1 ++ p5

/-- BASE × 300 + EXT, exact in 42 bits (41_adaptation_field.md R178). -/
def clockValue (base : BitVec 33) (ext : BitVec 9) : BitVec 42 :=
  BitVec.ofNat 42 (base.toNat * pcrMult + ext.toNat)

/-- `Clock(a)`: the 6 frame bytes at a to a + 5 (41_adaptation_field.md R164). -/
def FrameBuf.clock (f : FrameBuf) (a : Nat) : Reading (BitVec 33 × BitVec 9) := do
  let p0 ← f.get a
  let p1 ← f.get (a + 1)
  let p2 ← f.get (a + 2)
  let p3 ← f.get (a + 3)
  let p4 ← f.get (a + 4)
  let p5 ← f.get (a + 5)
  return (clockBase p0 p1 p2 p3 p4, clockExt p4 p5)

/-- PCR_F of a FLAGS byte (30_encoding.md R96). -/
def flagPcr (fl : Byte) : Bool := fl.getLsbD 4
/-- OPCR_F of a FLAGS byte (30_encoding.md R96). -/
def flagOpcr (fl : Byte) : Bool := fl.getLsbD 3
/-- SPLICE_F of a FLAGS byte (30_encoding.md R96). -/
def flagSplice (fl : Byte) : Bool := fl.getLsbD 2
/-- PRIV_F of a FLAGS byte (30_encoding.md R96). -/
def flagPriv (fl : Byte) : Bool := fl.getLsbD 1
/-- EXT_F of a FLAGS byte (30_encoding.md R96). -/
def flagExt (fl : Byte) : Bool := fl.getLsbD 0

/-- `remaining(off)`: the bytes of a field of length `l` from offset `off` to its last byte (41_adaptation_field.md R162). -/
def remaining (l off : Nat) : Nat := l + 1 - off

/-! ### The PES header (30_encoding.md R100 to R103) -/

/-- PTS_DTS, bits 7:6 of FLAGS2 (30_encoding.md R101). -/
def ptsDts (flags2 : Byte) : BitVec 2 := flags2.extractLsb' 6 2

/-- The stream identifiers that carry an extended header (42_pes_header.md R203). -/
def streamHasExt (sid : Byte) : Bool := decide (pesAvIdLo ≤ sid) && decide (sid ≤ pesAvIdHi)

/-- The 33-bit value of five time-stamp bytes; prefix and markers are ignored (42_pes_header.md R207). -/
def stampValue (t0 t1 t2 t3 t4 : Byte) : BitVec 33 :=
  t0.extractLsb' 1 3 ++ t1 ++ t2.extractLsb' 1 7 ++ t3 ++ t4.extractLsb' 1 7

/-- `Stamp(a)`: the time stamp of frame bytes a to a + 4 (42_pes_header.md R201). -/
def FrameBuf.stamp (f : FrameBuf) (a : Nat) : Reading (BitVec 33) := do
  let t0 ← f.get a
  let t1 ← f.get (a + 1)
  let t2 ← f.get (a + 2)
  let t3 ← f.get (a + 3)
  let t4 ← f.get (a + 4)
  return stampValue t0 t1 t2 t3 t4

/-! ### Adaptation-field control and the payload (30_encoding.md R94, R99) -/

/-- An adaptation field is present: AFC 2 or 3. -/
def afcHasField (afc : BitVec 2) : Bool := afc == 2 || afc == 3

/-- The packet carries payload: AFC 1 or 3. -/
def afcHasPayload (afc : BitVec 2) : Bool := afc == 1 || afc == 3

/-- The frame index of the first payload byte (30_encoding.md R99). -/
def payloadOffset (afc : BitVec 2) (afLen : Byte) : Nat :=
  tsHeaderLen + if afcHasField afc then 1 + afLen.toNat else 0

end Sys2Proof.Machine
end

