-- ==== Sys2Proof/Machine/Flags.lean ====
section
/-! DEFINITION. The flag computations. The block has no condition codes (10_state.md R49): its flags are the two sticky bits
of STATUS, ACTIVE, and the tests ABSORB decides by. -/

namespace Sys2Proof.Machine

/-- STATUS.OVF ← 1 (43_pes_assembler.md R259). -/
def State.setOvf (s : State) : State := { s with ovf := true }

/-- STATUS.OOB ← 0 and STATUS.OVF ← 0 (44_frame_and_control.md R300). -/
def State.clearSticky (s : State) : State := { s with ovf := false, port := { s.port with oob := false } }

/-- The continuity counter expected of a packet with control value `afc` (43_pes_assembler.md R248, R264): the next value
modulo 16 when it carries payload, else the last one again. -/
def expectedCc (afc : BitVec 2) (lastCc : BitVec 4) : BitVec 4 :=
  if afcHasPayload afc then lastCc + 1 else lastCc

/-- The FINISHED test (43_pes_assembler.md R254), on integers. -/
def unitComplete (pktLen : BitVec 16) (bufLen : BitVec 32) : Bool :=
  pktLen != 0 && decide (pesBasicHdrLen + pktLen.toNat ≤ bufLen.toNat)

/-- The capacity check of a continuation (43_pes_assembler.md R258), on integers. -/
def fitsBuffer (cap : Nat) (bufLen : BitVec 32) (n : Nat) : Bool := decide (bufLen.toNat + n ≤ cap)

end Sys2Proof.Machine
end

