-- ==== Sys2Proof/Machine/AdaptationField.lean ====
section
/-! DEFINITION. The adaptation-field decoder: AFPARSE and AFSTUFF (41_adaptation_field.md). A walk carries the AF set being
filled and the offset `off`, counted from the length byte at frame index 4 (R161). -/

namespace Sys2Proof.Machine

/-- The frame index of the adaptation field's length byte, A of 41_adaptation_field.md R161. -/
def afStart : Nat := 4

/-! ### AFPARSE -/

/-- The PCR is consumed when its flag is set and 6 bytes remain (41_adaptation_field.md R163). -/
def FrameBuf.takePcr (f : FrameBuf) (l : Nat) (w : AfRegs × Nat) : Reading (AfRegs × Nat) :=
  if flagPcr w.1.flags ∧ 6 ≤ remaining l w.2 then do
    let c ← f.clock (afStart + w.2)
    return ({ w.1 with pcrBase := c.1, pcrExt := c.2, pcr := clockValue c.1 c.2 }, w.2 + 6)
  else pure w

/-- The OPCR, under the same gate (41_adaptation_field.md R163). -/
def FrameBuf.takeOpcr (f : FrameBuf) (l : Nat) (w : AfRegs × Nat) : Reading (AfRegs × Nat) :=
  if flagOpcr w.1.flags ∧ 6 ≤ remaining l w.2 then do
    let c ← f.clock (afStart + w.2)
    return ({ w.1 with opcrBase := c.1, opcrExt := c.2, opcr := clockValue c.1 c.2 }, w.2 + 6)
  else pure w

/-- The splice countdown is consumed when its flag is set and a byte remains (41_adaptation_field.md R165). -/
def FrameBuf.takeSplice (f : FrameBuf) (l : Nat) (w : AfRegs × Nat) : Reading (AfRegs × Nat) :=
  if flagSplice w.1.flags ∧ 1 ≤ remaining l w.2 then do
    let b ← f.get (afStart + w.2)
    return ({ w.1 with splice := b }, w.2 + 1)
  else pure w

/-- The private data: its length byte n is read when the flag is set and a byte remains, and the sub-field is consumed when
1 + n bytes remain (41_adaptation_field.md R166). -/
def FrameBuf.takePriv (f : FrameBuf) (l : Nat) (w : AfRegs × Nat) : Reading (AfRegs × Nat) :=
  if flagPriv w.1.flags ∧ 1 ≤ remaining l w.2 then do
    let n ← f.get (afStart + w.2)
    if 1 + n.toNat ≤ remaining l w.2 then return ({ w.1 with privLen := n }, w.2 + 1 + n.toNat)
    else return w
  else pure w

/-- The extension, under the test of the private data (41_adaptation_field.md R167). -/
def FrameBuf.takeExt (f : FrameBuf) (l : Nat) (w : AfRegs × Nat) : Reading (AfRegs × Nat) :=
  if flagExt w.1.flags ∧ 1 ≤ remaining l w.2 then do
    let n ← f.get (afStart + w.2)
    if 1 + n.toNat ≤ remaining l w.2 then return ({ w.1 with extLen := n }, w.2 + 1 + n.toNat)
    else return w
  else pure w

/-- The optional fields in the source's order (41_adaptation_field.md R161). -/
def FrameBuf.afWalk (f : FrameBuf) (l : Nat) (w : AfRegs × Nat) : Reading (AfRegs × Nat) := do
  let w ← f.takePcr l w
  let w ← f.takeOpcr l w
  let w ← f.takeSplice l w
  let w ← f.takePriv l w
  f.takeExt l w

/-- The length bound of a control value: 183 when payload follows, 184 when it does not (41_adaptation_field.md R161). -/
def afMaxLen (c : BitVec 2) : Nat := if c = 3 then afMaxLenWithPayload else afMaxLenNoPayload

/-- The adaptation-field decode of 41_adaptation_field.md R161: the new AF set, and the code and value. -/
def FrameBuf.afParse (f : FrameBuf) (c : BitVec 2) : Reading (AfRegs × Result) := do
  let empty := { AfRegs.zero with ctrl := c }
  if !afcHasField c then
    return (empty, { code := .ok, value := 0 })
  else
    let l ← f.get afStart
    if afMaxLen c < l.toNat then
      return (empty, { code := .invalidLength, value := 0 })
    else
      let done : Result := { code := .ok, value := BitVec.ofNat 16 (l.toNat + 1) }
      if l = 0 then
        return ({ empty with len := l }, done)
      else
        let fl ← f.get (afStart + 1)
        let w ← f.afWalk l.toNat ({ empty with len := l, flags := fl }, 2)
        return (w.1, done)

/-- The body of AFPARSE without its `result` (41_adaptation_field.md R161). -/
def afBody (s : State) : State × Result :=
  let r := s.frame.afParse s.ts.afc s.port
  ({ s with af := r.1.1, port := r.2 }, r.1.2)

/-- AFPARSE (41_adaptation_field.md R160). -/
def execAfparse (s : State) : Out := complete (afBody s)

/-! ### AFSTUFF -/

/-- Bytes used and offset after the flags byte and the fixed-size sub-fields flagged, with no fit test
(41_adaptation_field.md R172, R173). -/
def stuffFixed (fl : Byte) : Nat × Nat :=
  let size := (if flagPcr fl then 6 else 0) + (if flagOpcr fl then 6 else 0) + (if flagSplice fl then 1 else 0)
  (1 + size, 2 + size)

/-- A flagged length-prefixed sub-field: its length byte is read from the frame as it stands (41_adaptation_field.md R173). -/
def FrameBuf.stuffPrefixed (f : FrameBuf) (flag : Bool) (u : Nat × Nat) : Reading (Nat × Nat) :=
  if flag then do
    let n ← f.get (afStart + u.2)
    return (u.1 + 1 + n.toNat, u.2 + 1 + n.toNat)
  else pure u

/-- `Stuff()` (41_adaptation_field.md R172): LEN less the bytes used, clamped to 0 (the truncated subtraction of naturals). -/
def FrameBuf.stuffing (f : FrameBuf) (a : AfRegs) : Reading Nat :=
  if !afcHasField a.ctrl || a.len == 0 then pure 0
  else do
    let u ← f.stuffPrefixed (flagPriv a.flags) (stuffFixed a.flags)
    let u ← f.stuffPrefixed (flagExt a.flags) u
    return a.len.toNat - u.1

/-- The body of AFSTUFF without its `result` (41_adaptation_field.md R172). -/
def stuffBody (s : State) : State × Result :=
  let r := s.frame.stuffing s.af s.port
  ({ s with af := { s.af with stuff := BitVec.ofNat 8 r.1 }, port := r.2 }, { code := .ok, value := BitVec.ofNat 16 r.1 })

/-- AFSTUFF (41_adaptation_field.md R172). -/
def execAfstuff (s : State) : Out := complete (stuffBody s)

end Sys2Proof.Machine
end

