-- ==== Sys2Proof/Machine/PesHeader.lean ====
section
/-! DEFINITION. The PES header decoder: PESPARSE, and the procedure PesParse it shares with ABSORB (42_pes_header.md). -/

namespace Sys2Proof.Machine

/-- The extension of a PES header at `p`, its basic fields already in `h` (42_pes_header.md R205, R206). -/
def FrameBuf.pesExtension (f : FrameBuf) (p : Nat) (h : PesRegs) : Reading (PesRegs × Result) := do
  let fl1 ← f.get (p + 6)
  let fl2 ← f.get (p + 7)
  let hdl ← f.get (p + 8)
  let hdrLen := BitVec.ofNat 16 (pesBasicHdrLen + pesExtFixedLen + hdl.toNat)
  let pts ← if (ptsDts fl2).getLsbD 1 then f.stamp (p + 9) else pure 0
  let dts ← if ptsDts fl2 = 3 then f.stamp (p + 14) else pure 0
  return ({ h with flags1 := fl1, flags2 := fl2, hdl := hdl, hdrLen := hdrLen, pts := pts, dts := dts },
    { code := .ok, value := hdrLen })

/-- `PesParse(P)` (42_pes_header.md R201): the new PES set, and the code and value. -/
def FrameBuf.pesParse (f : FrameBuf) (p : Nat) : Reading (PesRegs × Result) := do
  let b0 ← f.get p
  let b1 ← f.get (p + 1)
  let b2 ← f.get (p + 2)
  let start : BitVec 24 := b0 ++ b1 ++ b2
  if start ≠ pesStartCode then
    return ({ PesRegs.zero with startPrefix := start }, { code := .invalidStartCode, value := 0 })
  else
    let sid ← f.get (p + 3)
    let l1 ← f.get (p + 4)
    let l0 ← f.get (p + 5)
    let basic : PesRegs :=
      { PesRegs.zero with
        startPrefix := start, streamId := sid, pktLen := l1 ++ l0, hdrLen := BitVec.ofNat 16 pesBasicHdrLen
        hasExt := streamHasExt sid }
    if !streamHasExt sid || decide (basic.pktLen.toNat < pesExtMinPktLen) then
      return (basic, { code := .ok, value := BitVec.ofNat 16 pesBasicHdrLen })
    else
      f.pesExtension p basic

/-- `PesParse(P)` as an effect on the machine: PES set, STATUS.OOB and the draws (42_pes_header.md R201, R208). -/
def pesBody (p : Nat) (s : State) : State × Result :=
  let r := s.frame.pesParse p s.port
  ({ s with pes := r.1.1, port := r.2 }, r.1.2)

/-- PESPARSE (42_pes_header.md R200). IMM8 above 187 is an illegal command, which the decoder already rejects (R209;
log 10). -/
def execPesparse (off : Byte) (s : State) : Out :=
  if off.toNat < frameLen then complete (pesBody off.toNat s) else .next (illegalCommand s)

end Sys2Proof.Machine
end

