-- ==== Sys2Proof/Machine/PesAssembler.lean ====
section
/-! DEFINITION. The PES assembler: INIT and ABSORB (43_pes_assembler.md). ABSORB is cut at the source's steps (R246). -/

namespace Sys2Proof.Machine

/-- INIT (43_pes_assembler.md R240). -/
def execInit (pid : BitVec 13) (s : State) : Out :=
  complete
    ({ s.clearPes with asm := { targetPid := pid, active := false, lastCc := 0, bufLen := 0, stuffTotal := 0 } },
      { code := .ok, value := 0 })

/-- ACTIVE ← v. -/
def State.setActive (s : State) (v : Bool) : State := { s with asm := { s.asm with active := v } }

/-- Step 3 (43_pes_assembler.md R249): a payload-bearing packet's counter becomes the baseline. -/
def recordCc (s : State) : State :=
  if afcHasPayload s.ts.afc then { s with asm := { s.asm with lastCc := s.ts.cc } } else s

/-- Step 4 (43_pes_assembler.md R250): the packet's stuffing count, and the state with it added to STUFF_TOTAL. -/
def countStuffing (s : State) : State × Nat :=
  let r := if afcHasField s.ts.afc then s.frame.stuffing s.af s.port else (0, s.port)
  ({ s with asm := { s.asm with stuffTotal := s.asm.stuffTotal + BitVec.ofNat 32 r.1 }, port := r.2 }, r.1)

/-- The end of steps 6 and 7 (43_pes_assembler.md R254): FINISHED(n) and Idle when the unit is complete, else `more`(n). -/
def finishUnit (s : State) (more : ResultCode) (n : Nat) : State × Result :=
  if unitComplete s.pes.pktLen s.asm.bufLen then
    (s.setActive false, { code := .finished, value := BitVec.ofNat 16 n })
  else (s, { code := more, value := BitVec.ofNat 16 n })

/-- Step 6 before its header parse (43_pes_assembler.md R252): the old unit is discarded. -/
def beginUnit (s : State) (stuff : Nat) : State :=
  { s with asm := { s.asm with bufLen := 0, stuffTotal := BitVec.ofNat 32 stuff, active := false } }

/-- Step 6 (43_pes_assembler.md R252 to R255). -/
def absorbStart (off n stuff : Nat) (s : State) : State × Result :=
  let p := pesBody off (beginUnit s stuff)
  if p.2.code = .ok then finishUnit ((p.1.append off n).setActive true) .started n
  else (p.1, { code := .invalidStartCode, value := 0 })

/-- Step 7 (43_pes_assembler.md R256, R258, R259). -/
def absorbContinue (off n : Nat) (s : State) : State × Result :=
  if fitsBuffer s.params.pesBufCap s.asm.bufLen n then finishUnit (s.append off n) .continues n
  else ((s.setActive false).setOvf, { code := .bufferOverflow, value := 0 })

/-- Steps 5 to 8, after steps 1 to 4 (43_pes_assembler.md R246). -/
def absorbPayload (s : State) (stuff : Nat) : State × Result :=
  let off := payloadOffset s.ts.afc s.af.len
  let n := frameLen - off
  if !afcHasPayload s.ts.afc || decide (frameLen ≤ off) then
    (s, { code := if s.asm.active then .continues else .lostNoPayload, value := 0 })
  else if s.ts.pusi then absorbStart off n stuff s
  else if s.asm.active then absorbContinue off n s
  else (s, { code := .lostOutOfSync, value := 0 })

/-- The body of ABSORB without its `result` (43_pes_assembler.md R246): step 1 the identifier filter (R247), step 2 the
continuity check (R248), then steps 3 to 8. -/
def absorbBody (s : State) : State × Result :=
  if s.ts.pid ≠ s.asm.targetPid then (s, { code := .unexpectedId, value := 0 })
  else if s.asm.active ∧ s.ts.cc ≠ expectedCc s.ts.afc s.asm.lastCc then
    (s.setActive false, { code := .lostContinuity, value := 0 })
  else
    let c := countStuffing (recordCc s)
    absorbPayload c.1 c.2

/-- ABSORB (43_pes_assembler.md R245). -/
def execAbsorb (s : State) : Out := complete (absorbBody s)

end Sys2Proof.Machine
end

