-- ==== Sys2Proof/Machine/TsHeader.lean ====
section
/-! DEFINITION. The transport header decoder: TSPARSE (40_ts_header.md). -/

namespace Sys2Proof.Machine

/-- The header decode of 40_ts_header.md R141: the new TS set, and the code and value. -/
def FrameBuf.tsParse (f : FrameBuf) (syncByte : Byte) : Reading (TsRegs × Result) := do
  let s ← f.get 0
  if s ≠ syncByte then
    return ({ TsRegs.zero with sync := s }, { code := .invalidSync, value := 0 })
  else
    let b1 ← f.get 1
    let b2 ← f.get 2
    let b3 ← f.get 3
    return (tsFields s b1 b2 b3, { code := .ok, value := BitVec.ofNat 16 tsHeaderLen })

/-- The body of TSPARSE without its `result` (40_ts_header.md R141; 44_frame_and_control.md R290). -/
def tsBody (s : State) : State × Result :=
  let r := s.frame.tsParse s.params.syncByte s.port
  ({ s with ts := r.1.1, port := r.2 }, r.1.2)

/-- TSPARSE (40_ts_header.md R140). -/
def execTsparse (s : State) : Out := complete (tsBody s)

end Sys2Proof.Machine
end

