-- ==== Sys2Proof/Machine/FrameControl.lean ====
section
/-! DEFINITION. FRAME, CLEAR and NOP (44_frame_and_control.md). -/

namespace Sys2Proof.Machine

/-- FRAME's last two stages (44_frame_and_control.md R290). -/
def frameTail (s : State) : State × Result := absorbBody (stuffBody s).1

/-- The body of FRAME (44_frame_and_control.md R290): a failed parse ends it with that stage's code (R292). -/
def frameBody (s : State) : State × Result :=
  let t := tsBody s
  if t.2.code ≠ .ok then t
  else
    let a := afBody t.1
    if a.2.code ≠ .ok then a else frameTail a.1

/-- FRAME (44_frame_and_control.md R290). -/
def execFrame (s : State) : Out := complete (frameBody s)

/-- `op` when the mask bit is set. -/
def State.onBit (s : State) (b : Bool) (op : State → State) : State := if b then op s else s

/-- CLEAR (44_frame_and_control.md R300). -/
def execClear (mask : Byte) (s : State) : Out :=
  complete
    ((((s.onBit (mask.getLsbD 0) State.clearTs).onBit (mask.getLsbD 1) State.clearAf).onBit (mask.getLsbD 2)
        State.clearPes).onBit (mask.getLsbD 3) State.clearSticky,
      { code := .ok, value := 0 })

/-- NOP (44_frame_and_control.md R310): changes nothing, RESULT included. -/
def execNop (s : State) : Out := .next s

end Sys2Proof.Machine
end

