-- ==== Sys2Proof/Machine/Dispatch.lean ====
section
/-! DEFINITION. One arm per command of spec/opcode_table.json, each one direct call of its meaning. -/

namespace Sys2Proof.Machine

def exec (i : Instr) (s : State) : Host.Outcome State Fault Refusal :=
  match i with
  | .nop => Sys2Proof.Machine.execNop s
  | .init pid => Sys2Proof.Machine.execInit pid s
  | .tsparse => Sys2Proof.Machine.execTsparse s
  | .afparse => Sys2Proof.Machine.execAfparse s
  | .afstuff => Sys2Proof.Machine.execAfstuff s
  | .pesparse off => Sys2Proof.Machine.execPesparse off s
  | .absorb => Sys2Proof.Machine.execAbsorb s
  | .frame => Sys2Proof.Machine.execFrame s
  | .clear mask => Sys2Proof.Machine.execClear mask s

end Sys2Proof.Machine
end

