-- ==== Sys2Proof/Machine/HostPort.lean ====
section
/-! DEFINITION. The host's side of the block (20_memory.md): the register map (R65), the FRAME and PESBUF windows (R66,
R67), the access rules (R60, R75), a CMD write as one command (R62), and the reset input (70 R351). -/

namespace Sys2Proof.Machine

/-! ### The register map (20_memory.md R65) -/

/-- The registers of the map, each under its own name. -/
inductive Reg where
  | cmd | result | status | target | tsA | tsB | afA | afB
  | pcrBaseLo | pcrX | pcrLo | pcrHi | opcrBaseLo | opcrX | opcrLo | opcrHi
  | pesA | pesB | pesC | ptsLo | ptsHi | dtsLo | dtsHi
  | bufLen | stuffTotal | bufCap
  deriving DecidableEq, Repr

/-- The byte offset of a register (20_memory.md R65). -/
def Reg.offset : Reg → Nat
  | .cmd => 0x000
  | .result => 0x004
  | .status => 0x008
  | .target => 0x00C
  | .tsA => 0x010
  | .tsB => 0x014
  | .afA => 0x020
  | .afB => 0x024
  | .pcrBaseLo => 0x028
  | .pcrX => 0x02C
  | .pcrLo => 0x030
  | .pcrHi => 0x034
  | .opcrBaseLo => 0x038
  | .opcrX => 0x03C
  | .opcrLo => 0x040
  | .opcrHi => 0x044
  | .pesA => 0x050
  | .pesB => 0x054
  | .pesC => 0x058
  | .ptsLo => 0x05C
  | .ptsHi => 0x060
  | .dtsLo => 0x064
  | .dtsHi => 0x068
  | .bufLen => 0x070
  | .stuffTotal => 0x074
  | .bufCap => 0x078

/-- Every register of the map. -/
def Reg.all : List Reg :=
  [.cmd, .result, .status, .target, .tsA, .tsB, .afA, .afB, .pcrBaseLo, .pcrX, .pcrLo, .pcrHi, .opcrBaseLo, .opcrX,
    .opcrLo, .opcrHi, .pesA, .pesB, .pesC, .ptsLo, .ptsHi, .dtsLo, .dtsHi, .bufLen, .stuffTotal, .bufCap]

/-- RESULT.CODE as the host reads it (30_encoding.md R110). -/
def ResultCode.toByte : ResultCode → Byte
  | .none => 0x00
  | .ok => 0x01
  | .started => 0x02
  | .continues => 0x03
  | .finished => 0x04
  | .lostContinuity => 0x05
  | .lostOutOfSync => 0x06
  | .lostNoPayload => 0x07
  | .unexpectedId => 0x08
  | .invalidSync => 0x09
  | .invalidLength => 0x0A
  | .invalidStartCode => 0x0B
  | .invalidInput => 0x0C
  | .bufferOverflow => 0x0D
  | .illegalCommand => 0x0E

/-- A 1-bit field. -/
def bit (b : Bool) : BitVec 1 := BitVec.ofBool b

/-- A run of `n` bits that read 0. -/
def zeros (n : Nat) : BitVec n := 0#n

/-- STATUS (10_state.md R48). -/
def statusWord (s : State) : Word :=
  zeros 24 ++ s.asm.lastCc ++ zeros 1 ++ bit s.ovf ++ bit s.port.oob ++ bit s.asm.active

/-- The upper words of a 33-bit base with its 9-bit extension, PCR_X and OPCR_X (20_memory.md R65). -/
def clockXWord (base : BitVec 33) (ext : BitVec 9) : Word := zeros 7 ++ ext ++ zeros 15 ++ base.extractLsb' 32 1

/-- Bits 41:32 of a clock value, PCR_HI and OPCR_HI (20_memory.md R65). -/
def clockHiWord (v : BitVec 42) : Word := zeros 22 ++ v.extractLsb' 32 10

/-- Bit 32 of a time stamp, PTS_HI and DTS_HI (20_memory.md R65). -/
def stampHiWord (v : BitVec 33) : Word := zeros 31 ++ v.extractLsb' 32 1

/-- What a host read of a register returns (20_memory.md R65; CMD reads 0, R75). -/
def Reg.read (s : State) : Reg → Word
  | .cmd => 0
  | .result => s.result.value ++ zeros 8 ++ s.result.code.toByte
  | .status => statusWord s
  | .target => zeros 19 ++ s.asm.targetPid
  | .tsA => zeros 3 ++ s.ts.pid ++ zeros 5 ++ bit s.ts.prio ++ bit s.ts.pusi ++ bit s.ts.tei ++ s.ts.sync
  | .tsB => zeros 20 ++ s.ts.cc ++ zeros 2 ++ s.ts.afc ++ zeros 2 ++ s.ts.sc
  | .afA => s.af.stuff ++ s.af.flags ++ s.af.len ++ zeros 6 ++ s.af.ctrl
  | .afB => zeros 8 ++ s.af.extLen ++ s.af.privLen ++ s.af.splice
  | .pcrBaseLo => s.af.pcrBase.extractLsb' 0 32
  | .pcrX => clockXWord s.af.pcrBase s.af.pcrExt
  | .pcrLo => s.af.pcr.extractLsb' 0 32
  | .pcrHi => clockHiWord s.af.pcr
  | .opcrBaseLo => s.af.opcrBase.extractLsb' 0 32
  | .opcrX => clockXWord s.af.opcrBase s.af.opcrExt
  | .opcrLo => s.af.opcr.extractLsb' 0 32
  | .opcrHi => clockHiWord s.af.opcr
  | .pesA => s.pes.streamId ++ s.pes.startPrefix
  | .pesB => s.pes.hdrLen ++ s.pes.pktLen
  | .pesC => zeros 7 ++ bit s.pes.hasExt ++ s.pes.hdl ++ s.pes.flags2 ++ s.pes.flags1
  | .ptsLo => s.pes.pts.extractLsb' 0 32
  | .ptsHi => stampHiWord s.pes.pts
  | .dtsLo => s.pes.dts.extractLsb' 0 32
  | .dtsHi => stampHiWord s.pes.dts
  | .bufLen => s.asm.bufLen
  | .stuffTotal => s.asm.stuffTotal
  | .bufCap => BitVec.ofNat 32 s.params.pesBufCap

/-! ### Addresses (20_memory.md R64 to R67, R75) -/

/-- The first offset of the FRAME window (20_memory.md R65). -/
def frameBase : Nat := 0x400

/-- The words of the FRAME window (20_memory.md R66). -/
def frameWords : Nat := 47

/-- The first offset of the PESBUF window (20_memory.md R65). -/
def pesBufBase : Nat := 0x100000

/-- What stands at a word address. -/
inductive Place where
  | register (r : Reg)
  /-- Word `k` of the FRAME window. -/
  | frameWord (k : Nat)
  /-- Word `k` of the PESBUF window. -/
  | pesBufWord (k : Nat)
  | unmapped
  deriving DecidableEq, Repr

/-- What stands at an aligned offset, for a PES buffer of `cap` bytes (20_memory.md R65 to R67, R75). -/
def placeAt (cap a : Nat) : Place :=
  if frameBase ≤ a ∧ a < frameBase + 4 * frameWords then .frameWord ((a - frameBase) / 4)
  else if pesBufBase ≤ a ∧ a - pesBufBase < cap then .pesBufWord ((a - pesBufBase) / 4)
  else
    match Reg.all.find? (fun r => r.offset == a) with
    | some r => .register r
    | none => .unmapped

/-- Four bytes as the host sees them, the first in bits 7:0 (20_memory.md R66, R77). -/
def packWord (b0 b1 b2 b3 : Byte) : Word := b3 ++ b2 ++ b1 ++ b0

/-- Byte `j` of a host word, bits [8j+7:8j] (20_memory.md R66). -/
def wordByte (w : Word) (j : Nat) : Byte := w.extractLsb' (8 * j) 8

/-- Word `k` of the FRAME window (20_memory.md R66). -/
def readFrameWord (s : State) (k : Nat) : Word :=
  packWord (s.frame.byte (4 * k)) (s.frame.byte (4 * k + 1)) (s.frame.byte (4 * k + 2)) (s.frame.byte (4 * k + 3))

/-- PES buffer byte `i` in the window: 0 at or past the capacity (20_memory.md R67, R74). -/
def pesWindowByte (s : State) (i : Nat) : Byte :=
  if i < s.params.pesBufCap then s.pesBuf.byte s.asm.bufLen.toNat i else 0

/-- Word `k` of the PESBUF window (20_memory.md R67). -/
def readPesBufWord (s : State) (k : Nat) : Word :=
  packWord (pesWindowByte s (4 * k)) (pesWindowByte s (4 * k + 1)) (pesWindowByte s (4 * k + 2))
    (pesWindowByte s (4 * k + 3))

/-- What a host word read at an aligned offset returns (20_memory.md R65 to R67, R75). -/
def readWord (s : State) (a : Nat) : Word :=
  match placeAt s.params.pesBufCap a with
  | .register r => r.read s
  | .frameWord k => readFrameWord s k
  | .pesBufWord k => readPesBufWord s k
  | .unmapped => 0

/-- A host write of word `k` of the FRAME window: frame bytes 4k to 4k + 3 (20_memory.md R66). -/
def writeFrameWord (s : State) (k : Nat) (w : Word) : State :=
  { s with
    frame :=
      (((s.frame.setByte (4 * k) (wordByte w 0)).setByte (4 * k + 1) (wordByte w 1)).setByte (4 * k + 2)
        (wordByte w 2)).setByte (4 * k + 3) (wordByte w 3) }

/-- A CMD write runs the command it carries to completion (20_memory.md R62); an illegal word is an illegal command
(44_frame_and_control.md R312). -/
def runCommand (w : Word) (s : State) : Out :=
  match decode w with
  | .ok i => exec i s
  | .error _ => .next (illegalCommand s)

/-- A host word write at an aligned offset: CMD runs a command, FRAME changes frame bytes, every other write is ignored
(20_memory.md R62, R66, R75). -/
def writeWord (s : State) (a : Nat) (w : Word) : Out :=
  match placeAt s.params.pesBufCap a with
  | .register .cmd => runCommand w s
  | .frameWord k => .next (writeFrameWord s k w)
  | .register _ | .pesBufWord _ | .unmapped => .next s

/-! ### Host events -/

/-- The release of reset (70_reset_and_hazards.md R351): every register takes the value of R350, both RAMs hold new unknown
bytes; the parameters, the host's queue and read data, and the count of draws are not the block's state (log 6). -/
def State.afterReset (s : State) : State :=
  { State.reset with
    port := { oob := false, draws := s.port.draws }
    frame := { cells := [], epoch := s.frame.epoch + 1 }
    pesBuf := { cells := [], epoch := s.pesBuf.epoch + 1 }
    params := s.params
    hostQueue := s.hostQueue
    busData := s.busData }

/-- An access the spec defines: a whole word at a multiple of 4 (20_memory.md R60). -/
def accessDefined (a : Addr) (size : AccessSize) : Bool := size == .word && a.toNat % 4 == 0

/-- A bus access: refused during reset (70 R351) and unless it is an aligned word (20_memory.md R60, R369). -/
def busAccess (s : State) (a : Addr) (size : AccessSize) (served : Out) : Out :=
  if s.inReset then .refused .accessDuringReset
  else if accessDefined a size then served
  else .refused (.unsupportedAccess a)

/-- One event of the host (20_memory.md R61 to R63; 70 R351). -/
def serve (e : HostEvent) (s : State) : Out :=
  match e with
  | .read a size => busAccess s a size (.next { s with busData := readWord s a.toNat })
  | .write a size w => busAccess s a size (writeWord s a.toNat w)
  | .assertReset => .next { s with inReset := true }
  | .releaseReset => .next (if s.inReset then s.afterReset else s)

/-! ### Host programs (30_encoding.md R133, R134) -/

/-- A CMD write. -/
def hostCommand (w : Word) : HostEvent := .write 0x000 .word w

/-- The frame bytes `LOAD <bytes> fill <b>` writes (30_encoding.md R133). -/
def loadByte (bytes : List Byte) (fill : Byte) (i : Nat) : Byte := bytes.getD i fill

/-- `LOAD <bytes> fill <b>`: 47 word writes through the FRAME window (30_encoding.md R133). -/
def hostLoad (bytes : List Byte) (fill : Byte) : List HostEvent :=
  (List.range frameWords).map fun k =>
    .write (BitVec.ofNat 24 (frameBase + 4 * k)) .word
      (packWord (loadByte bytes fill (4 * k)) (loadByte bytes fill (4 * k + 1)) (loadByte bytes fill (4 * k + 2))
        (loadByte bytes fill (4 * k + 3)))

/-- `READ <register>` (30_encoding.md R133). -/
def hostRead (r : Reg) : HostEvent := .read (BitVec.ofNat 24 r.offset) .word

/-- `PROCESS <bytes>`: LOAD then FRAME (30_encoding.md R134). -/
def hostProcess (bytes : List Byte) (fill : Byte) : List HostEvent :=
  hostLoad bytes fill ++ [hostCommand (encode .frame)]

/-- `CLEARALL`: CLEAR 15 (30_encoding.md R134). -/
def hostClearAll : List HostEvent := [hostCommand (encode (.clear (maskTS ||| maskAF ||| maskPES ||| maskFLAGS)))]

/-- `DECODE`: TSPARSE, AFPARSE, AFSTUFF, each run even if an earlier one failed (30_encoding.md R134). -/
def hostDecode : List HostEvent :=
  [hostCommand (encode .tsparse), hostCommand (encode .afparse), hostCommand (encode .afstuff)]

end Sys2Proof.Machine
end

