-- ==== Sys2Proof/Machine/Step.lean ====
section
/-! DEFINITION. The step: the block serves the oldest event of the host (20_memory.md R61, R63), and does nothing while
there is none (60_exceptions.md R335). -/

namespace Sys2Proof.Machine

/-- One step (log 1). -/
def step (s : State) : Host.Outcome State Fault Refusal :=
  match s.hostQueue with
  | [] => .next s
  | e :: rest => serve e { s with hostQueue := rest }

/-- The next step serves a CMD write of the word (log 1); the reset input is not asserted. -/
def State.withFetchWord (s : State) (nbits w : Nat) : State :=
  { s with
    inReset := false
    hostQueue := hostCommand (BitVec.ofNat 32 (w % 2 ^ nbits)) :: s.hostQueue }

end Sys2Proof.Machine
end

