-- ==== Sys2Proof/Safety.lean ====
section
/-! DEFINITION. What a legal state is, in the terms the claims use: the legal values the spec gives each register set, the
canonical form of the two memories, and that the bytes of the current unit are in the buffer. -/

namespace Sys2Proof.Machine

/-- The TS set is the decode of a header with the right sync byte, or holds a sync byte and zeros (40_ts_header.md R143,
10_state.md R24). -/
def State.TsLegal (s : State) : Prop :=
  s.ts.sync = s.params.syncByte ∨ s.ts = { TsRegs.zero with sync := s.ts.sync }

/-- The bounds of LEN under CTRL, and of STUFF (10_state.md R28). -/
structure AfRegs.Legal (a : AfRegs) : Prop where
  withPayload : a.ctrl = 3 → a.len.toNat ≤ 183
  noPayload : a.ctrl = 2 → a.len.toNat ≤ 184
  noField : a.ctrl = 0 ∨ a.ctrl = 1 → a.len = 0
  stuff : a.stuff.toNat ≤ a.len.toNat

/-- PCR and OPCR are the combined values of their parts (10_state.md R27). -/
structure AfRegs.ClocksExact (a : AfRegs) : Prop where
  pcr : a.pcr.toNat = a.pcrBase.toNat * 300 + a.pcrExt.toNat
  opcr : a.opcr.toNat = a.opcrBase.toNat * 300 + a.opcrExt.toNat

/-- A PES header read as 6 bytes (42_pes_header.md R203, R204). -/
structure PesRegs.Basic (h : PesRegs) : Prop where
  hdrLen : h.hdrLen = 6
  noFields : h.flags1 = 0 ∧ h.flags2 = 0 ∧ h.hdl = 0 ∧ h.pts = 0 ∧ h.dts = 0
  short : h.hasExt = true → h.pktLen.toNat < 3

/-- A PES header with its extension (42_pes_header.md R205, R206). -/
structure PesRegs.Extended (h : PesRegs) : Prop where
  hasExt : h.hasExt = true
  pktLen : 3 ≤ h.pktLen.toNat
  hdrLen : h.hdrLen.toNat = 9 + h.hdl.toNat
  pts : h.pts ≠ 0 → h.flags2.getLsbD 7 = true
  dts : h.dts ≠ 0 → h.flags2.getLsbD 7 = true ∧ h.flags2.getLsbD 6 = true

/-- The PES set holds what one parse or a clear leaves in it (10_state.md R34, R35; 42_pes_header.md R202). -/
def PesRegs.Legal (h : PesRegs) : Prop :=
  h = { PesRegs.zero with startPrefix := h.startPrefix } ∨
    (h.startPrefix = 0x000001 ∧ (h.hasExt = true ↔ 0xC0 ≤ h.streamId.toNat ∧ h.streamId.toNat ≤ 0xEF) ∧
      (h.Basic ∨ h.Extended))

/-- BUF_LEN within the capacity, and a unit in progress has bytes (10_state.md R42; 43_pes_assembler.md R255). -/
structure State.AsmLegal (s : State) : Prop where
  bufLen : s.asm.bufLen.toNat ≤ s.params.pesBufCap
  active : s.asm.active = true → 0 < s.asm.bufLen.toNat

/-- Every byte of the current or last unit has been written since the reset (20_memory.md R74). -/
def State.UnitStored (s : State) : Prop :=
  ∀ i < s.asm.bufLen.toNat, (Memory.read? s.pesBuf.cells i).isSome

/-- Both memories in canonical form and within their sizes (20_memory.md R68, R72). -/
structure State.MemLegal (s : State) : Prop where
  frameWf : Memory.wf s.frame.cells = true
  frameBelow : Memory.below 188 s.frame.cells = true
  pesWf : Memory.wf s.pesBuf.cells = true
  pesBelow : Memory.below s.params.pesBufCap s.pesBuf.cells = true

/-- The codes whose VALUE may be other than 0 (30_encoding.md R111). -/
def ResultCode.isSuccess : ResultCode → Bool
  | .ok | .started | .continues | .finished => true
  | .none | .lostContinuity | .lostOutOfSync | .lostNoPayload | .unexpectedId | .invalidSync | .invalidLength
  | .invalidStartCode | .invalidInput | .bufferOverflow | .illegalCommand => false

/-- RESULT holds a code some command writes, or NONE, and a VALUE only with a success (30_encoding.md R110, R111). -/
structure Result.Legal (r : Result) : Prop where
  produced : r.code ≠ .invalidInput
  value : r.value ≠ 0 → r.code.isSuccess = true

/-- The legal states. -/
structure State.Inv (s : State) : Prop where
  params : s.params.legal
  mem : s.MemLegal
  ts : s.TsLegal
  af : s.af.Legal
  clocks : s.af.ClocksExact
  pes : s.pes.Legal
  asm : s.AsmLegal
  unit : s.UnitStored
  result : s.result.Legal

end Sys2Proof.Machine
end

