-- ==== Sys2Proof/Certificates/Slice0/Obligations.lean ====
section
/-! DEFINITION. The statements for the provers, and the reference formulas they are stated in: the spec's layouts and tables
as arithmetic on naturals, written apart from the machine's bit slices and walks. -/

namespace Sys2Proof.Claims

open Sys2Proof.Machine

/-! ### The command word (30_encoding.md R90) -/

/-- OP. -/
def opOf (w : Word) : Nat := w.toNat % 16
/-- RSV0. -/
def rsv0Of (w : Word) : Nat := w.toNat / 16 % 16
/-- IMM8. -/
def imm8Of (w : Word) : Nat := w.toNat / 256 % 256
/-- PID13. -/
def pid13Of (w : Word) : Nat := w.toNat / 65536 % 8192
/-- RSV1. -/
def rsv1Of (w : Word) : Nat := w.toNat / 536870912

/-- The illegal command words (44_frame_and_control.md R312). -/
def IllegalWord (w : Word) : Prop :=
  rsv0Of w ≠ 0 ∨ rsv1Of w ≠ 0 ∨ 9 ≤ opOf w ∨ (opOf w = 5 ∧ 187 < imm8Of w)

/-- The oldest event of the host is a CMD write of `w`, and the reset input is not asserted (20_memory.md R62). -/
def CmdPending (s : State) (w : Word) (rest : List HostEvent) : Prop :=
  s.inReset = false ∧ s.hostQueue = .write 0x000 .word w :: rest

/-! ### Frame bytes -/

/-- Frame byte `i` as a number. -/
def fb (f : FrameBuf) (i : Nat) : Nat := (f.byte i).toNat

/-- The `n` frame bytes from `a`, most significant first, as a number (20_memory.md R76). -/
def beNat (f : FrameBuf) (a : Nat) : Nat → Nat
  | 0 => 0
  | n + 1 => beNat f a n * 256 + fb f (a + n)

/-- Bit `k` of a number. -/
def bitOf (n k : Nat) : Bool := decide (n / 2 ^ k % 2 = 1)

/-- The byte a command gets at frame index `p + k` when it reads upwards from `p` inside the frame and `d` draws were taken
before (20_memory.md R70). -/
def byteOr (f : FrameBuf) (d p k : Nat) : Byte :=
  if p + k < 188 then f.byte (p + k) else Config.freeByte (d + (p + k - 188))

/-- The port after reads upwards from inside the frame to just below index `e`. -/
def portAfter (q : Port) (e : Nat) : Port :=
  if e ≤ 188 then q else { oob := true, draws := q.draws + (e - 188) }

/-! ### The transport header (30_encoding.md R92) -/

/-- The TS fields of the 32-bit number of frame bytes 0 to 3. -/
def tsRef (f : FrameBuf) : TsRegs :=
  let w := beNat f 0 4
  { sync := BitVec.ofNat 8 (w / 2 ^ 24)
    tei := bitOf w 23
    pusi := bitOf w 22
    prio := bitOf w 21
    pid := BitVec.ofNat 13 (w / 2 ^ 8 % 2 ^ 13)
    sc := BitVec.ofNat 2 (w / 2 ^ 6 % 4)
    afc := BitVec.ofNat 2 (w / 2 ^ 4 % 4)
    cc := BitVec.ofNat 4 (w % 16) }

/-! ### The adaptation field (41_adaptation_field.md R161 to R167) -/

/-- An adaptation field is present (30_encoding.md R94). -/
def HasField (afc : BitVec 2) : Prop := afc = 2 ∨ afc = 3

/-- The packet carries payload (30_encoding.md R94). -/
def HasPayload (afc : BitVec 2) : Prop := afc = 1 ∨ afc = 3

/-- The length byte exceeds its bound under control value `c` (41_adaptation_field.md R169). -/
def TooLong (f : FrameBuf) (c : BitVec 2) : Prop := (c = 3 ∧ 183 < fb f 4) ∨ (c = 2 ∧ 184 < fb f 4)

/-- Bit `k` of the FLAGS byte, which is read only when LEN is at least 1. -/
def afBit (f : FrameBuf) (k : Nat) : Bool := decide (1 ≤ fb f 4) && bitOf (fb f 5) k

/-- The PCR is consumed. -/
def pcrFits (f : FrameBuf) : Bool := afBit f 4 && decide (7 ≤ fb f 4)
/-- The offset the OPCR would have. -/
def offOpcr (f : FrameBuf) : Nat := if pcrFits f then 8 else 2
/-- The OPCR is consumed. -/
def opcrFits (f : FrameBuf) : Bool := afBit f 3 && decide (offOpcr f + 5 ≤ fb f 4)
/-- The offset the splice countdown would have. -/
def offSplice (f : FrameBuf) : Nat := offOpcr f + if opcrFits f then 6 else 0
/-- The splice countdown is consumed. -/
def spliceFits (f : FrameBuf) : Bool := afBit f 2 && decide (offSplice f ≤ fb f 4)
/-- The offset the private data's length byte would have. -/
def offPriv (f : FrameBuf) : Nat := offSplice f + if spliceFits f then 1 else 0
/-- The private data is consumed. -/
def privFits (f : FrameBuf) : Bool := afBit f 1 && decide (offPriv f + fb f (4 + offPriv f) ≤ fb f 4)
/-- The offset the extension's length byte would have. -/
def offExt (f : FrameBuf) : Nat := offPriv f + if privFits f then 1 + fb f (4 + offPriv f) else 0
/-- The extension is consumed. -/
def extFits (f : FrameBuf) : Bool := afBit f 0 && decide (offExt f + fb f (4 + offExt f) ≤ fb f 4)
/-- AFPARSE's final offset. -/
def offEnd (f : FrameBuf) : Nat := offExt f + if extFits f then 1 + fb f (4 + offExt f) else 0

/-- Every flagged sub-field is consumed. -/
def allFit (f : FrameBuf) : Bool :=
  (!afBit f 4 || pcrFits f) && (!afBit f 3 || opcrFits f) && (!afBit f 2 || spliceFits f) &&
    (!afBit f 1 || privFits f) && (!afBit f 0 || extFits f)

/-- The 48-bit number of a clock field at offset `o` (30_encoding.md R97). -/
def clockNat (f : FrameBuf) (o : Nat) : Nat := beNat f (4 + o) 6

/-- Its BASE. -/
def baseNat (f : FrameBuf) (o : Nat) : Nat := clockNat f o / 2 ^ 15
/-- Its EXT. -/
def extNat (f : FrameBuf) (o : Nat) : Nat := clockNat f o % 2 ^ 9

/-- `n` when the field is consumed, else 0, in `w` bits (92_eei_decisions.md D18). -/
def fieldOf (fits : Bool) (w n : Nat) : BitVec w := BitVec.ofNat w (if fits then n else 0)

/-- The AF set of a field whose length byte is within its bound (41_adaptation_field.md R161). -/
def afFieldRef (f : FrameBuf) (c : BitVec 2) : AfRegs :=
  { ctrl := c
    len := f.byte 4
    flags := if fb f 4 = 0 then 0 else f.byte 5
    pcrBase := fieldOf (pcrFits f) 33 (baseNat f 2)
    pcrExt := fieldOf (pcrFits f) 9 (extNat f 2)
    pcr := fieldOf (pcrFits f) 42 (baseNat f 2 * 300 + extNat f 2)
    opcrBase := fieldOf (opcrFits f) 33 (baseNat f (offOpcr f))
    opcrExt := fieldOf (opcrFits f) 9 (extNat f (offOpcr f))
    opcr := fieldOf (opcrFits f) 42 (baseNat f (offOpcr f) * 300 + extNat f (offOpcr f))
    splice := fieldOf (spliceFits f) 8 (fb f (4 + offSplice f))
    privLen := fieldOf (privFits f) 8 (fb f (4 + offPriv f))
    extLen := fieldOf (extFits f) 8 (fb f (4 + offExt f))
    stuff := 0 }

/-- The port after AFPARSE of such a field: one draw, when the extension's length byte is at frame index 188
(41_adaptation_field.md R168). -/
def afPortRef (f : FrameBuf) (q : Port) : Port :=
  if afBit f 0 ∧ fb f 4 = 184 ∧ offExt f = 184 then { oob := true, draws := q.draws + 1 } else q

/-! ### The stuffing count (41_adaptation_field.md R172) -/

/-- The bytes of the fixed-size sub-fields flagged. -/
def fixedSize (a : AfRegs) : Nat :=
  let fl := a.flags.toNat
  (if bitOf fl 4 then 6 else 0) + (if bitOf fl 3 then 6 else 0) + (if bitOf fl 2 then 1 else 0)

/-- The bytes the private data counts for. -/
def privSize (f : FrameBuf) (a : AfRegs) : Nat :=
  if bitOf a.flags.toNat 1 then 1 + fb f (6 + fixedSize a) else 0

/-- The frame index of the extension's length byte. -/
def extIndex (f : FrameBuf) (a : AfRegs) : Nat := 6 + fixedSize a + privSize f a

/-- The bytes the extension counts for, its length byte a draw past the frame. -/
def extSize (f : FrameBuf) (a : AfRegs) (d : Nat) : Nat :=
  if bitOf a.flags.toNat 0 then
    1 + (if extIndex f a < 188 then fb f (extIndex f a) else (Config.freeByte d).toNat)
  else 0

/-- `Stuff()` has a field to walk. -/
def Walks (a : AfRegs) : Prop := HasField a.ctrl ∧ a.len ≠ 0

open Classical in
/-- `Stuff()`. -/
noncomputable def stuffRef (f : FrameBuf) (a : AfRegs) (d : Nat) : Nat :=
  if Walks a then a.len.toNat - (1 + fixedSize a + privSize f a + extSize f a d) else 0

open Classical in
/-- The port after `Stuff()`. -/
noncomputable def stuffPortRef (f : FrameBuf) (a : AfRegs) (q : Port) : Port :=
  if Walks a ∧ bitOf a.flags.toNat 0 ∧ 188 ≤ extIndex f a then { oob := true, draws := q.draws + 1 } else q

/-! ### The PES header (42_pes_header.md R201 to R207) -/

/-- The number of the byte `k` after `p`. -/
def pb (f : FrameBuf) (d p k : Nat) : Nat := (byteOr f d p k).toNat

/-- The 24-bit start code read at `p`. -/
def startNat (f : FrameBuf) (d p : Nat) : Nat := pb f d p 0 * 65536 + pb f d p 1 * 256 + pb f d p 2

/-- PKT_LEN. -/
def pktNat (f : FrameBuf) (d p : Nat) : Nat := pb f d p 4 * 256 + pb f d p 5

/-- The stream identifier is in the audio or video range (42_pes_header.md R203). -/
def AudioVideo (f : FrameBuf) (d p : Nat) : Prop := 192 ≤ pb f d p 3 ∧ pb f d p 3 ≤ 239

/-- The arithmetic of 42_pes_header.md R207 on the five bytes from `k` after `p`. -/
def stampNat (f : FrameBuf) (d p k : Nat) : Nat :=
  pb f d p k / 2 % 8 * 2 ^ 30 + pb f d p (k + 1) * 2 ^ 22 + pb f d p (k + 2) / 2 * 2 ^ 15 + pb f d p (k + 3) * 2 ^ 7 +
    pb f d p (k + 4) / 2

/-- The PES set a successful parse of a 6-byte header leaves. -/
def pesBasicRef (f : FrameBuf) (d p : Nat) (ext : Bool) : PesRegs :=
  { PesRegs.zero with
    startPrefix := 1
    streamId := byteOr f d p 3
    pktLen := BitVec.ofNat 16 (pktNat f d p)
    hdrLen := 6
    hasExt := ext }

/-- The PES set a successful parse of an extended header leaves. -/
def pesExtRef (f : FrameBuf) (d p : Nat) : PesRegs :=
  { pesBasicRef f d p true with
    hdrLen := BitVec.ofNat 16 (9 + pb f d p 8)
    flags1 := byteOr f d p 6
    flags2 := byteOr f d p 7
    hdl := byteOr f d p 8
    pts := BitVec.ofNat 33 (if 128 ≤ pb f d p 7 then stampNat f d p 9 else 0)
    dts := BitVec.ofNat 33 (if 192 ≤ pb f d p 7 then stampNat f d p 14 else 0) }

/-- How far an extended parse reads: P+8, P+13 or P+18 (42_pes_header.md R206). -/
def pesExtReads (f : FrameBuf) (d p : Nat) : Nat :=
  if 192 ≤ pb f d p 7 then 19 else if 128 ≤ pb f d p 7 then 14 else 9

open Classical in
/-- `PesParse(P)`: the PES set. -/
noncomputable def pesRef (f : FrameBuf) (d p : Nat) : PesRegs :=
  if startNat f d p ≠ 1 then { PesRegs.zero with startPrefix := BitVec.ofNat 24 (startNat f d p) }
  else if ¬AudioVideo f d p then pesBasicRef f d p false
  else if pktNat f d p < 3 then pesBasicRef f d p true
  else pesExtRef f d p

open Classical in
/-- `PesParse(P)`: how many bytes it reads. -/
noncomputable def pesReads (f : FrameBuf) (d p : Nat) : Nat :=
  if startNat f d p ≠ 1 then 3
  else if ¬AudioVideo f d p ∨ pktNat f d p < 3 then 6
  else pesExtReads f d p

/-! ### The assembler (43_pes_assembler.md R246 to R262) -/

open Classical in
/-- The payload offset (30_encoding.md R99). -/
noncomputable def offRef (s : State) : Nat := if HasField s.ts.afc then 5 + s.af.len.toNat else 4

/-- The bytes of the payload. -/
noncomputable def lenRef (s : State) : Nat := 188 - offRef s

/-- "pay" of 43_pes_assembler.md R262. -/
def Pays (s : State) : Prop := HasPayload s.ts.afc ∧ offRef s < 188

open Classical in
/-- "cc ok" of 43_pes_assembler.md R262, the counter of R248 and R264. -/
def CcOk (s : State) : Prop :=
  s.ts.cc.toNat = if HasPayload s.ts.afc then (s.asm.lastCc.toNat + 1) % 16 else s.asm.lastCc.toNat

open Classical in
/-- The packet's stuffing (43_pes_assembler.md R250). -/
noncomputable def packetStuff (s : State) : Nat :=
  if HasField s.ts.afc then stuffRef s.frame s.af s.port.draws else 0

open Classical in
/-- The port when PesParse starts in ABSORB. -/
noncomputable def portAfterStuff (s : State) : Port :=
  if HasField s.ts.afc then stuffPortRef s.frame s.af s.port else s.port

/-- The draws taken when PesParse starts in ABSORB. -/
noncomputable def drawsAfterStuff (s : State) : Nat := (portAfterStuff s).draws

/-- The packet passes steps 1 and 2 of ABSORB. -/
def Accepted (s : State) : Prop := s.ts.pid = s.asm.targetPid ∧ (s.asm.active = true → CcOk s)

/-- The start code of a unit-start packet is good. -/
def GoodStart (s : State) : Prop := startNat s.frame (drawsAfterStuff s) (offRef s) = 1

/-- A unit that starts with this packet is complete (43_pes_assembler.md R254). -/
def DoneAtStart (s : State) : Prop :=
  let pkt := pktNat s.frame (drawsAfterStuff s) (offRef s)
  pkt ≠ 0 ∧ 6 + pkt ≤ lenRef s

/-- The unit in progress is complete with this packet (43_pes_assembler.md R254). -/
def DoneHere (s : State) : Prop :=
  s.pes.pktLen.toNat ≠ 0 ∧ 6 + s.pes.pktLen.toNat ≤ s.asm.bufLen.toNat + lenRef s

/-- "fits" of 43_pes_assembler.md R262. -/
def Fits (s : State) : Prop := s.asm.bufLen.toNat + lenRef s ≤ s.params.pesBufCap

/-- A result with a count. -/
def res (c : ResultCode) (n : Nat) : Result := { code := c, value := BitVec.ofNat 16 n }

open Classical in
/-- The table of 43_pes_assembler.md R262: RESULT, ACTIVE and BUF_LEN afterwards, the rows in order. -/
noncomputable def transition (s : State) : Result × Bool × Nat :=
  let n := lenRef s
  let old := s.asm.bufLen.toNat
  if s.ts.pid ≠ s.asm.targetPid then (res .unexpectedId 0, s.asm.active, old)
  else if s.asm.active ∧ ¬CcOk s then (res .lostContinuity 0, false, old)
  else if s.asm.active ∧ ¬Pays s then (res .continues 0, true, old)
  else if ¬Pays s then (res .lostNoPayload 0, false, old)
  else if s.ts.pusi ∧ ¬GoodStart s then (res .invalidStartCode 0, false, 0)
  else if s.ts.pusi ∧ DoneAtStart s then (res .finished n, false, n)
  else if s.ts.pusi then (res .started n, true, n)
  else if s.asm.active ∧ ¬Fits s then (res .bufferOverflow 0, false, old)
  else if s.asm.active ∧ DoneHere s then (res .finished n, false, old + n)
  else if s.asm.active then (res .continues n, true, old + n)
  else (res .lostOutOfSync 0, false, old)

open Classical in
/-- LAST_CC after ABSORB (the sentence under the table of 43_pes_assembler.md R262). -/
noncomputable def lastCcRef (s : State) : BitVec 4 :=
  if Accepted s ∧ HasPayload s.ts.afc then s.ts.cc else s.asm.lastCc

open Classical in
/-- STUFF_TOTAL after ABSORB (43_pes_assembler.md R250, R252, R262). -/
noncomputable def stuffTotalRef (s : State) : Nat :=
  if ¬Accepted s then s.asm.stuffTotal.toNat
  else if Pays s ∧ s.ts.pusi = true then packetStuff s
  else (s.asm.stuffTotal.toNat + packetStuff s) % 2 ^ 32

/-- The port when PesParse has read the header of a unit-start packet (43_pes_assembler.md R252). -/
noncomputable def portAfterHeader (s : State) : Port :=
  portAfter (portAfterStuff s) (offRef s + pesReads s.frame (drawsAfterStuff s) (offRef s))

open Classical in
/-- The port after ABSORB (43_pes_assembler.md R261): only Stuff(), at step 4, and PesParse, at a unit start, read past the
frame. -/
noncomputable def absorbPortRef (s : State) : Port :=
  if ¬Accepted s then s.port
  else if Pays s ∧ s.ts.pusi = true then portAfterHeader s
  else portAfterStuff s

/-- One packet as ABSORB gets it: a TS set, an AF set and a frame (43_pes_assembler.md R245). -/
structure Packet where
  ts : TsRegs
  af : AfRegs
  frame : FrameBuf

/-- The machine with a packet's sets and frame in place. -/
def feed (s : State) (p : Packet) : State := { s with ts := p.ts, af := p.af, frame := p.frame }

/-- ABSORB of packet after packet: the last state and the codes in order. -/
def absorbRun : State → List Packet → Option (State × List ResultCode)
  | s, [] => some (s, [])
  | s, p :: ps =>
    match exec .absorb (feed s p) with
    | .next t => (absorbRun t ps).map fun r => (r.1, t.result.code :: r.2)
    | .fault _ => none
    | .refused _ => none

/-- Payload packets of identifier `pid` whose counters run c, c + 1, ... modulo 16. -/
def Consecutive (pid : BitVec 13) : BitVec 4 → List Packet → Prop
  | _, [] => True
  | c, p :: ps => p.ts.pid = pid ∧ HasPayload p.ts.afc ∧ p.ts.cc = c ∧ Consecutive pid (c + 1) ps

/-- A payload-only frame of identifier `pid` with counter `cc`, its unit-start bit given, as bytes (30_encoding.md R92). -/
def PayloadOnlyFrame (f : FrameBuf) (sync : Byte) (pid : BitVec 13) (pusi : Bool) (cc : BitVec 4) : Prop :=
  f.byte 0 = sync ∧ bitOf (fb f 1) 6 = pusi ∧ fb f 1 % 32 * 256 + fb f 2 = pid.toNat ∧ fb f 3 / 16 % 4 = 1 ∧
    fb f 3 % 16 = cc.toNat

/-! ### The host's view -/

/-- The value a word read at offset `a` returns. -/
def wordAt (s : State) (a : Nat) : Nat := (readWord s a).toNat

/-- A 1-bit field as a number. -/
def b1 (b : Bool) : Nat := if b then 1 else 0

/-- The number of a result code (30_encoding.md R110). -/
def codeNumber : ResultCode → Nat
  | .none => 0
  | .ok => 1
  | .started => 2
  | .continues => 3
  | .finished => 4
  | .lostContinuity => 5
  | .lostOutOfSync => 6
  | .lostNoPayload => 7
  | .unexpectedId => 8
  | .invalidSync => 9
  | .invalidLength => 10
  | .invalidStartCode => 11
  | .invalidInput => 12
  | .bufferOverflow => 13
  | .illegalCommand => 14

/-- Byte `j` of a word. -/
def byteOf (w : Word) (j : Nat) : Nat := w.toNat / 256 ^ j % 256

/-- The offsets of the registers (20_memory.md R65). -/
def registerOffsets : List Nat :=
  [0x000, 0x004, 0x008, 0x00C, 0x010, 0x014, 0x020, 0x024, 0x028, 0x02C, 0x030, 0x034, 0x038, 0x03C, 0x040, 0x044, 0x050,
    0x054, 0x058, 0x05C, 0x060, 0x064, 0x068, 0x070, 0x074, 0x078]

/-- An unmapped word (20_memory.md R65, R75). -/
def Unmapped (cap a : Nat) : Prop :=
  a ∉ registerOffsets ∧ ¬(0x400 ≤ a ∧ a ≤ 0x4BB) ∧ ¬(0x100000 ≤ a ∧ a ≤ 0x100000 + 4 * ((cap + 3) / 4) - 1)

end Sys2Proof.Claims

open Sys2Proof Sys2Proof.Machine Sys2Proof.Claims

/-! ### Encoding -/

/-- Decoding the encoder's word gives the command back, with every operand at every value the encoding admits
(30_encoding.md section 1; the encoder writes the ignored fields 0, log 11). -/
def Obligations.DecodeEncodeRoundTrip : Prop :=
  ∀ i : Instr, i.wellFormed = true → decode (encode i) = .ok i

/-- 30_encoding.md R91: every word decodes to the command R91 lists for its OP, or to an illegal command, which then runs
44_frame_and_control.md R312. -/
def Obligations.DecodeIsTotal : Prop :=
  ∀ (w : Word) (s : State),
    ((∃ r, decode w = .error r) ↔ IllegalWord w) ∧
    (IllegalWord w → runCommand w s = .next { s with result := { code := .illegalCommand, value := 0 } }) ∧
    (¬IllegalWord w →
      (opOf w = 0 → decode w = .ok .nop) ∧
      (opOf w = 1 → decode w = .ok (.init (BitVec.ofNat 13 (pid13Of w)))) ∧
      (opOf w = 2 → decode w = .ok .tsparse) ∧
      (opOf w = 3 → decode w = .ok .afparse) ∧
      (opOf w = 4 → decode w = .ok .afstuff) ∧
      (opOf w = 5 → decode w = .ok (.pesparse (BitVec.ofNat 8 (imm8Of w)))) ∧
      (opOf w = 6 → decode w = .ok .absorb) ∧
      (opOf w = 7 → decode w = .ok .frame) ∧
      (opOf w = 8 → decode w = .ok (.clear (BitVec.ofNat 8 (imm8Of w)))))

/-- 44_frame_and_control.md R312: a CMD write of an illegal word writes ILLEGAL_COMMAND(0) and changes nothing else; of any
other word, it runs the command decoded. -/
def Obligations.IllegalCommandChangesOnlyResult : Prop :=
  ∀ (s : State) (w : Word) (rest : List HostEvent), CmdPending s w rest →
    (IllegalWord w →
      step s = .next { s with hostQueue := rest, result := { code := .illegalCommand, value := 0 } }) ∧
    (¬IllegalWord w → ∃ i, decode w = .ok i ∧ step s = exec i { s with hostQueue := rest })

/-- 30_encoding.md R121: reserved encodings are illegal commands, and an operand field a command does not use has no effect
whatever it holds. -/
def Obligations.UnusedFieldsIgnored : Prop :=
  ∀ (w w' : Word) (s : State),
    (IllegalWord w → runCommand w s = .next { s with result := { code := .illegalCommand, value := 0 } }) ∧
    (¬IllegalWord w → ¬IllegalWord w' → opOf w = opOf w' →
      (opOf w = 1 → pid13Of w = pid13Of w') →
      (opOf w = 5 → imm8Of w = imm8Of w') →
      (opOf w = 8 → imm8Of w % 16 = imm8Of w' % 16) →
      runCommand w s = runCommand w' s)

/-- 44_frame_and_control.md R313, its nine words. -/
def Obligations.WorkedDecodeExamples : Prop :=
  decode 0x00000000 = .ok .nop ∧
  decode 0x00000010 = .error .reservedBits ∧
  decode 0x0000000F = .error (.reservedOpcode 15) ∧
  decode 0x0000BB05 = .ok (.pesparse 187) ∧
  decode 0x0000BC05 = .error (.offsetPastFrame 188) ∧
  decode 0x20000006 = .error .reservedBits ∧
  decode 0x1FFF0001 = .ok (.init 8191) ∧
  decode 0xFFFF0808 = .error .reservedBits ∧
  decode 0x1FFF0F08 = .ok (.clear 15)

/-- The words and the operand ranges of the assembler syntax (30_encoding.md section 6). -/
def Obligations.AssemblerOperandRanges : Prop :=
  (∀ n, assemble .INIT (some n) = if n ≤ 8191 then some (BitVec.ofNat 32 (1 + n * 65536)) else none) ∧
  (∀ n, assemble .PESPARSE (some n) = if n ≤ 187 then some (BitVec.ofNat 32 (5 + n * 256)) else none) ∧
  (∀ n, assemble .CLEAR (some n) = if n ≤ 255 then some (BitVec.ofNat 32 (8 + n * 256)) else none) ∧
  assemble .NOP none = some 0 ∧ assemble .TSPARSE none = some 2 ∧ assemble .AFPARSE none = some 3 ∧
  assemble .AFSTUFF none = some 4 ∧ assemble .ABSORB none = some 6 ∧ assemble .FRAME none = some 7

/-! ### The step and the host's accesses -/

/-- A CMD write runs the command its word decodes to, in the same step (20_memory.md section 1); with no event of the host
left, a step changes nothing (the host's queue is the model's own, log 1). -/
def Obligations.StepRunsDecodedCommand : Prop :=
  (∀ (s : State) (w : Word) (rest : List HostEvent) (i : Instr), CmdPending s w rest → decode w = .ok i →
    step s = exec i { s with hostQueue := rest }) ∧
  ∀ s : State, s.hostQueue = [] → step s = .next s

/-- 30_encoding.md R112: no command stops, whatever it reports. -/
def Obligations.EveryCommandCompletes : Prop :=
  (∀ (i : Instr) (s : State), ∃ t, exec i s = .next t) ∧
  (∀ (w : Word) (s : State), ∃ t, runCommand w s = .next t)

/-- The state the release of reset leaves, from any state (70_reset_and_hazards.md section 1): every register 0, the
parameters kept, and no byte of either RAM known (the free values of log 4 and log 5). -/
def Obligations.ResetReleaseState : Prop :=
  ∀ (s : State) (rest : List HostEvent), s.inReset = true → s.hostQueue = .releaseReset :: rest →
    ∃ t, step s = .next t ∧ t.inReset = false ∧ t.hostQueue = rest ∧
      t.ts = ⟨0, false, false, false, 0, 0, 0, 0⟩ ∧
      t.af = ⟨0, 0, 0, 0, 0, 0, 0, 0, 0, 0, 0, 0, 0⟩ ∧
      t.pes = ⟨0, 0, 0, 0, false, 0, 0, 0, 0, 0⟩ ∧
      t.asm = ⟨0, false, 0, 0, 0⟩ ∧
      t.result = ⟨.none, 0⟩ ∧ readWord t 0x008 = 0 ∧ t.params = s.params ∧
      (∀ i, t.frame.byte i = Config.frameAtReset t.frame.epoch i) ∧
      (∀ i, t.pesBuf.byte t.asm.bufLen.toNat i = Config.pesUnspecified t.pesBuf.epoch [] i) ∧
      t.frame.epoch ≠ s.frame.epoch ∧ t.pesBuf.epoch ≠ s.pesBuf.epoch

/-- 20_memory.md R60: an access that is not an aligned 32-bit word has no step; one that is has one. -/
def Obligations.OnlyAlignedWordsServed : Prop :=
  ∀ (s : State) (a : Addr) (size : AccessSize) (w : Word) (rest : List HostEvent), s.inReset = false →
    (s.hostQueue = .read a size :: rest ∨ s.hostQueue = .write a size w :: rest) →
    (¬(size = .word ∧ a.toNat % 4 = 0) → step s = .refused (.unsupportedAccess a)) ∧
    (size = .word → a.toNat % 4 = 0 → ∃ t, step s = .next t)

/-- While the reset input is asserted an access has no step (70_reset_and_hazards.md section 1). Asserting the input changes
nothing but inReset, and a release of an input that is not asserted changes nothing: the model's choice (log 6). -/
def Obligations.NoAccessDuringReset : Prop :=
  ∀ (s : State) (a : Addr) (size : AccessSize) (w : Word) (rest : List HostEvent),
    (s.hostQueue = .assertReset :: rest → step s = .next { s with hostQueue := rest, inReset := true }) ∧
    (s.inReset = true → s.hostQueue = .read a size :: rest ∨ s.hostQueue = .write a size w :: rest →
      step s = .refused .accessDuringReset) ∧
    (s.inReset = false → s.hostQueue = .releaseReset :: rest → step s = .next { s with hostQueue := rest })

/-- 20_memory.md R66: word k of the FRAME window holds frame bytes 4k to 4k+3, byte 4k+j in bits [8j+7:8j]; a write sets
them, and nothing else; a read returns them. -/
def Obligations.FrameWindowWord : Prop :=
  ∀ (s : State) (k : Nat) (a : Addr) (w : Word) (rest : List HostEvent), k < 47 → a.toNat = 0x400 + 4 * k →
    s.inReset = false →
    (s.hostQueue = .write a .word w :: rest →
      ∃ t, step s = .next t ∧ t = { s with frame := t.frame, hostQueue := rest } ∧
        (∀ i, fb t.frame i = if i / 4 = k then byteOf w (i % 4) else fb s.frame i) ∧
        readWord t a.toNat = w) ∧
    (s.hostQueue = .read a .word :: rest →
      ∃ v, step s = .next { s with hostQueue := rest, busData := v } ∧
        ∀ j < 4, byteOf v j = fb s.frame (4 * k + j))

/-- 20_memory.md R67: word k of the PESBUF window holds buffer bytes 4k to 4k+3, 0 at or past PES_BUF_CAP; a write is
ignored. -/
def Obligations.PesBufWindowWord : Prop :=
  ∀ (s : State) (k : Nat) (a : Addr) (w : Word) (rest : List HostEvent), 4 * k < s.params.pesBufCap →
    a.toNat = 0x100000 + 4 * k → s.inReset = false →
    (s.hostQueue = .read a .word :: rest →
      ∃ v, step s = .next { s with hostQueue := rest, busData := v } ∧
        ∀ j < 4, byteOf v j =
          if 4 * k + j < s.params.pesBufCap then (s.pesBuf.byte s.asm.bufLen.toNat (4 * k + j)).toNat else 0) ∧
    (s.hostQueue = .write a .word w :: rest → step s = .next { s with hostQueue := rest })

/-- 20_memory.md R75: unmapped words and CMD read 0, only CMD and the FRAME window take writes, and a read changes no
register and is idempotent. -/
def Obligations.ReadsAndIgnoredWrites : Prop :=
  ∀ (s : State) (a : Addr) (w : Word) (rest : List HostEvent), s.inReset = false → a.toNat % 4 = 0 →
    (s.hostQueue = .read a .word :: rest →
      ∃ v, step s = .next { s with hostQueue := rest, busData := v } ∧
        (Unmapped s.params.pesBufCap a.toNat ∨ a.toNat = 0x000 → v = 0) ∧
        step { s with hostQueue := .read a .word :: rest, busData := v } =
          .next { s with hostQueue := rest, busData := v }) ∧
    (s.hostQueue = .write a .word w :: rest → a.toNat ≠ 0x000 → ¬(0x400 ≤ a.toNat ∧ a.toNat ≤ 0x4BB) →
      step s = .next { s with hostQueue := rest })

/-- The register map as numbers (20_memory.md section 2, 30_encoding.md section 5): the value of every register, each field
at its place, each result code its number. -/
def Obligations.RegisterMapValues : Prop :=
  ∀ s : State, s.params.legal →
    wordAt s 0x000 = 0 ∧
    wordAt s 0x004 = codeNumber s.result.code + s.result.value.toNat * 2 ^ 16 ∧
    wordAt s 0x008 = b1 s.asm.active + b1 s.port.oob * 2 + b1 s.ovf * 4 + s.asm.lastCc.toNat * 16 ∧
    wordAt s 0x00C = s.asm.targetPid.toNat ∧
    wordAt s 0x010 = s.ts.sync.toNat + b1 s.ts.tei * 2 ^ 8 + b1 s.ts.pusi * 2 ^ 9 + b1 s.ts.prio * 2 ^ 10 +
      s.ts.pid.toNat * 2 ^ 16 ∧
    wordAt s 0x014 = s.ts.sc.toNat + s.ts.afc.toNat * 2 ^ 4 + s.ts.cc.toNat * 2 ^ 8 ∧
    wordAt s 0x020 = s.af.ctrl.toNat + s.af.len.toNat * 2 ^ 8 + s.af.flags.toNat * 2 ^ 16 + s.af.stuff.toNat * 2 ^ 24 ∧
    wordAt s 0x024 = s.af.splice.toNat + s.af.privLen.toNat * 2 ^ 8 + s.af.extLen.toNat * 2 ^ 16 ∧
    wordAt s 0x028 = s.af.pcrBase.toNat % 2 ^ 32 ∧
    wordAt s 0x02C = s.af.pcrBase.toNat / 2 ^ 32 + s.af.pcrExt.toNat * 2 ^ 16 ∧
    wordAt s 0x030 = s.af.pcr.toNat % 2 ^ 32 ∧
    wordAt s 0x034 = s.af.pcr.toNat / 2 ^ 32 ∧
    wordAt s 0x038 = s.af.opcrBase.toNat % 2 ^ 32 ∧
    wordAt s 0x03C = s.af.opcrBase.toNat / 2 ^ 32 + s.af.opcrExt.toNat * 2 ^ 16 ∧
    wordAt s 0x040 = s.af.opcr.toNat % 2 ^ 32 ∧
    wordAt s 0x044 = s.af.opcr.toNat / 2 ^ 32 ∧
    wordAt s 0x050 = s.pes.startPrefix.toNat + s.pes.streamId.toNat * 2 ^ 24 ∧
    wordAt s 0x054 = s.pes.pktLen.toNat + s.pes.hdrLen.toNat * 2 ^ 16 ∧
    wordAt s 0x058 = s.pes.flags1.toNat + s.pes.flags2.toNat * 2 ^ 8 + s.pes.hdl.toNat * 2 ^ 16 +
      b1 s.pes.hasExt * 2 ^ 24 ∧
    wordAt s 0x05C = s.pes.pts.toNat % 2 ^ 32 ∧
    wordAt s 0x060 = s.pes.pts.toNat / 2 ^ 32 ∧
    wordAt s 0x064 = s.pes.dts.toNat % 2 ^ 32 ∧
    wordAt s 0x068 = s.pes.dts.toNat / 2 ^ 32 ∧
    wordAt s 0x070 = s.asm.bufLen.toNat ∧
    wordAt s 0x074 = s.asm.stuffTotal.toNat ∧
    wordAt s 0x078 = s.params.pesBufCap

/-! ### NOP, INIT, CLEAR -/

/-- 44_frame_and_control.md R310: any word with OP = 0 and reserved fields 0 changes nothing. -/
def Obligations.NopChangesNothing : Prop :=
  (∀ s : State, exec .nop s = .next s) ∧
  ∀ (s : State) (w : Word) (rest : List HostEvent), CmdPending s w rest → opOf w = 0 → rsv0Of w = 0 → rsv1Of w = 0 →
    step s = .next { s with hostQueue := rest }

/-- 43_pes_assembler.md R240 and R241: INIT's effect, in every field; IMM8 is ignored; twice is as once. -/
def Obligations.InitConfiguresAssembler : Prop :=
  ∀ (s : State) (pid imm8 : Nat), pid ≤ 8191 → imm8 ≤ 255 →
    let t : State :=
      { s with
        asm := ⟨BitVec.ofNat 13 pid, false, 0, 0, 0⟩
        pes := ⟨0, 0, 0, 0, false, 0, 0, 0, 0, 0⟩
        result := ⟨.ok, 0⟩ }
    runCommand (BitVec.ofNat 32 (1 + imm8 * 256 + pid * 65536)) s = .next t ∧
      exec (.init (BitVec.ofNat 13 pid)) s = .next t ∧ exec (.init (BitVec.ofNat 13 pid)) t = .next t

/-- 44_frame_and_control.md R300: CLEAR zeroes the sets its mask chooses and the sticky flags; PID13 and IMM8[7:4] are
ignored. -/
def Obligations.ClearByMask : Prop :=
  ∀ (s : State) (mask pid : Nat), mask ≤ 255 → pid ≤ 8191 →
    let t : State :=
      { s with
        ts := if bitOf mask 0 then ⟨0, false, false, false, 0, 0, 0, 0⟩ else s.ts
        af := if bitOf mask 1 then ⟨0, 0, 0, 0, 0, 0, 0, 0, 0, 0, 0, 0, 0⟩ else s.af
        pes := if bitOf mask 2 then ⟨0, 0, 0, 0, false, 0, 0, 0, 0, 0⟩ else s.pes
        port := { s.port with oob := if bitOf mask 3 then false else s.port.oob }
        ovf := if bitOf mask 3 then false else s.ovf
        result := ⟨.ok, 0⟩ }
    exec (.clear (BitVec.ofNat 8 mask)) s = .next t ∧
      runCommand (BitVec.ofNat 32 (8 + mask * 256 + pid * 65536)) s = .next t

/-! ### TSPARSE -/

/-- 40_ts_header.md R141, R142 and R143: TSPARSE decodes the number of frame bytes 0 to 3 by 30_encoding.md R92, or leaves
the wrong sync byte and zeros; it writes nothing but the TS set and RESULT. -/
def Obligations.TsparseDecodesHeader : Prop :=
  ∀ s : State,
    (s.frame.byte 0 = s.params.syncByte →
      exec .tsparse s = .next { s with ts := tsRef s.frame, result := ⟨.ok, 4⟩ }) ∧
    (s.frame.byte 0 ≠ s.params.syncByte →
      exec .tsparse s =
        .next { s with ts := ⟨s.frame.byte 0, false, false, false, 0, 0, 0, 0⟩, result := ⟨.invalidSync, 0⟩ })

/-! ### AFPARSE and AFSTUFF -/

/-- 41_adaptation_field.md R169: AFPARSE's codes and counts, and the AF set after INVALID_LENGTH. -/
def Obligations.AfparseResultCodes : Prop :=
  ∀ s : State, ∃ t, exec .afparse s = .next t ∧
    (s.ts.afc = 0 ∨ s.ts.afc = 1 → t.result = ⟨.ok, 0⟩) ∧
    (HasField s.ts.afc → ¬TooLong s.frame s.ts.afc → t.result = res .ok (fb s.frame 4 + 1)) ∧
    (TooLong s.frame s.ts.afc →
      t.result = ⟨.invalidLength, 0⟩ ∧ t.af = ⟨s.ts.afc, 0, 0, 0, 0, 0, 0, 0, 0, 0, 0, 0, 0⟩)

/-- 41_adaptation_field.md R161: AFPARSE's whole effect. The sub-fields are those of R163 to R167 at the offsets the
consumed ones before them leave, the clocks the 48-bit numbers of 30_encoding.md R97; nothing but the AF set, STATUS.OOB
(R168) and RESULT is written. -/
def Obligations.AfparseWalksTheField : Prop :=
  ∀ s : State,
    (¬HasField s.ts.afc →
      exec .afparse s =
        .next { s with af := ⟨s.ts.afc, 0, 0, 0, 0, 0, 0, 0, 0, 0, 0, 0, 0⟩, result := ⟨.ok, 0⟩ }) ∧
    (TooLong s.frame s.ts.afc →
      exec .afparse s =
        .next { s with af := ⟨s.ts.afc, 0, 0, 0, 0, 0, 0, 0, 0, 0, 0, 0, 0⟩, result := ⟨.invalidLength, 0⟩ }) ∧
    (HasField s.ts.afc → ¬TooLong s.frame s.ts.afc →
      exec .afparse s =
        .next
          { s with
            af := afFieldRef s.frame s.ts.afc
            port := afPortRef s.frame s.port
            result := res .ok (fb s.frame 4 + 1) })

/-- 41_adaptation_field.md R172: AFSTUFF's whole effect, from the flags register and the frame as it stands. -/
def Obligations.AfstuffCountsUnusedBytes : Prop :=
  ∀ s : State,
    let v := stuffRef s.frame s.af s.port.draws
    v ≤ s.af.len.toNat ∧
      exec .afstuff s =
        .next
          { s with
            af := { s.af with stuff := BitVec.ofNat 8 v }
            port := stuffPortRef s.frame s.af s.port
            result := res .ok v }

/-- AFSTUFF right after AFPARSE of the same frame gives LEN less the bytes before AFPARSE's final offset when every flagged
sub-field fitted, and 0 when one did not (41_adaptation_field.md section 2, the corner cases (a) and (b) of R175). -/
def Obligations.StuffingAfterAfparse : Prop :=
  ∀ s : State, HasField s.ts.afc → ¬TooLong s.frame s.ts.afc → 1 ≤ fb s.frame 4 →
    ∃ t u, exec .afparse s = .next t ∧ exec .afstuff t = .next u ∧
      u.result = res .ok (if allFit s.frame then fb s.frame 4 + 1 - offEnd s.frame else 0) ∧
      u.af.stuff.toNat = if allFit s.frame then fb s.frame 4 + 1 - offEnd s.frame else 0

/-- 41_adaptation_field.md R177, the source's two stuffing properties. -/
def Obligations.SourceStuffingProperties : Prop :=
  (∀ (s : State) (base ext : Nat), s.ts.afc = 3 → fb s.frame 4 = 7 → fb s.frame 5 = 0x10 →
    base = beNat s.frame 6 6 / 2 ^ 15 → ext = beNat s.frame 6 6 % 2 ^ 9 →
    ∃ t u, exec .afparse s = .next t ∧ t.af.pcr.toNat = base * 300 + ext ∧ exec .afstuff t = .next u ∧
      u.result = ⟨.ok, 0⟩) ∧
  (∀ s : State, HasField s.ts.afc → ¬TooLong s.frame s.ts.afc → 1 ≤ fb s.frame 4 → fb s.frame 5 = 0 →
    ∃ t u, exec .afparse s = .next t ∧ exec .afstuff t = .next u ∧ u.result = res .ok (fb s.frame 4 - 1))

/-! ### PESPARSE -/

/-- 42_pes_header.md R201 and R208: PESPARSE's whole effect at every frame offset, the bytes past the frame draws; nothing but the PES
set, STATUS.OOB and RESULT is written. -/
def Obligations.PesparseDecodesHeader : Prop :=
  ∀ (s : State) (p : Nat), p ≤ 187 →
    exec (.pesparse (BitVec.ofNat 8 p)) s =
      .next
        { s with
          pes := pesRef s.frame s.port.draws p
          port := portAfter s.port (p + pesReads s.frame s.port.draws p)
          result :=
            if startNat s.frame s.port.draws p = 1 then ⟨.ok, (pesRef s.frame s.port.draws p).hdrLen⟩
            else ⟨.invalidStartCode, 0⟩ }

/-- 42_pes_header.md R209: the table of PESPARSE's results. -/
def Obligations.PesparseResultTable : Prop :=
  ∀ (s : State) (p : Byte),
    (187 < p.toNat → exec (.pesparse p) s = .next { s with result := ⟨.illegalCommand, 0⟩ }) ∧
    (p.toNat ≤ 187 →
      let d := s.port.draws
      let f := s.frame
      let n := p.toNat
      ∃ t, exec (.pesparse p) s = .next t ∧
        (startNat f d n ≠ 1 →
          t.result = ⟨.invalidStartCode, 0⟩ ∧
            t.pes = { PesRegs.zero with startPrefix := BitVec.ofNat 24 (startNat f d n) }) ∧
        (startNat f d n = 1 → ¬AudioVideo f d n → t.result = ⟨.ok, 6⟩ ∧ t.pes = pesBasicRef f d n false) ∧
        (startNat f d n = 1 → AudioVideo f d n → pktNat f d n < 3 →
          t.result = ⟨.ok, 6⟩ ∧ t.pes = pesBasicRef f d n true) ∧
        (startNat f d n = 1 → AudioVideo f d n → 3 ≤ pktNat f d n →
          t.result = res .ok (9 + pb f d n 8) ∧ t.pes = pesExtRef f d n))

/-- 42_pes_header.md R215: inside the frame the VALUE and the PTS are those of the bytes, and every 33-bit stamp, with any
4-bit prefix, comes back from its five bytes. -/
def Obligations.PesparseStampProperty : Prop :=
  ∀ (s : State) (p v pre : Nat), p ≤ 169 → fb s.frame p = 0 → fb s.frame (p + 1) = 0 → fb s.frame (p + 2) = 1 →
    192 ≤ fb s.frame (p + 3) → fb s.frame (p + 3) ≤ 239 → 3 ≤ fb s.frame (p + 4) * 256 + fb s.frame (p + 5) →
    ∃ t, exec (.pesparse (BitVec.ofNat 8 p)) s = .next t ∧ t.result = res .ok (9 + fb s.frame (p + 8)) ∧
      (bitOf (fb s.frame (p + 7)) 7 = true →
        t.pes.pts.toNat = fb s.frame (p + 9) / 2 % 8 * 2 ^ 30 + fb s.frame (p + 10) * 2 ^ 22 +
          fb s.frame (p + 11) / 2 * 2 ^ 15 + fb s.frame (p + 12) * 2 ^ 7 + fb s.frame (p + 13) / 2) ∧
      (bitOf (fb s.frame (p + 7)) 7 = true → v < 2 ^ 33 → pre < 16 →
        fb s.frame (p + 9) = pre * 16 + v / 2 ^ 30 * 2 + 1 → fb s.frame (p + 10) = v / 2 ^ 22 % 256 →
        fb s.frame (p + 11) = v / 2 ^ 15 % 128 * 2 + 1 → fb s.frame (p + 12) = v / 2 ^ 7 % 256 →
        fb s.frame (p + 13) = v % 128 * 2 + 1 → t.pes.pts.toNat = v)

/-! ### ABSORB -/

/-- 43_pes_assembler.md R247: a packet of another identifier changes nothing but RESULT. -/
def Obligations.AbsorbIgnoresOtherPids : Prop :=
  ∀ s : State, s.ts.pid ≠ s.asm.targetPid → exec .absorb s = .next { s with result := ⟨.unexpectedId, 0⟩ }

/-- 43_pes_assembler.md R248: a wrong counter during a unit, PUSI or not, ends the unit and changes nothing else; a unit not
in progress is not checked. -/
def Obligations.AbsorbContinuityCheck : Prop :=
  ∀ s : State, s.ts.pid = s.asm.targetPid →
    (s.asm.active = true → ¬CcOk s →
      exec .absorb s = .next { s with asm := { s.asm with active := false }, result := ⟨.lostContinuity, 0⟩ }) ∧
    (s.asm.active = false ∨ CcOk s → ∃ t, exec .absorb s = .next t ∧ t.result.code ≠ .lostContinuity)

/-- 43_pes_assembler.md R262: the table of ABSORB's transitions, and what LAST_CC and STUFF_TOTAL become. -/
def Obligations.AbsorbTransitionTable : Prop :=
  ∀ s : State, s.params.legal → s.asm.bufLen.toNat ≤ s.params.pesBufCap →
    ∃ t, exec .absorb s = .next t ∧ (t.result, t.asm.active, t.asm.bufLen.toNat) = transition s ∧
      t.asm.lastCc = lastCcRef s ∧ t.asm.stuffTotal.toNat = stuffTotalRef s

/-- A unit start with a good header: the PES set, the payload at buffer indices 0 to n-1, every other RAM byte as it was
(43_pes_assembler.md section 2, R252 and R255). -/
def Obligations.AbsorbUnitStartStoresPayload : Prop :=
  ∀ s : State, Accepted s → Pays s → s.ts.pusi = true → GoodStart s →
    ∃ t, exec .absorb s = .next t ∧ t.asm.bufLen.toNat = lenRef s ∧
      t.pes = pesRef s.frame (drawsAfterStuff s) (offRef s) ∧
      (∀ k < lenRef s, Memory.read? t.pesBuf.cells k = some (s.frame.byte (offRef s + k))) ∧
      (∀ k, lenRef s ≤ k → Memory.read? t.pesBuf.cells k = Memory.read? s.pesBuf.cells k)

/-- A continuation that fits: the payload at buffer indices BUF_LEN to BUF_LEN+n-1, every other RAM byte and the PES set as
they were (43_pes_assembler.md section 2, R256 and R257). -/
def Obligations.AbsorbContinuationStoresPayload : Prop :=
  ∀ s : State, s.params.legal → Accepted s → Pays s → s.ts.pusi = false → s.asm.active = true → Fits s →
    ∃ t, exec .absorb s = .next t ∧ t.asm.bufLen.toNat = s.asm.bufLen.toNat + lenRef s ∧ t.pes = s.pes ∧
      (∀ k < lenRef s,
        Memory.read? t.pesBuf.cells (s.asm.bufLen.toNat + k) = some (s.frame.byte (offRef s + k))) ∧
      (∀ i, ¬(s.asm.bufLen.toNat ≤ i ∧ i < s.asm.bufLen.toNat + lenRef s) →
        Memory.read? t.pesBuf.cells i = Memory.read? s.pesBuf.cells i)

/-- A continuation that does not fit appends nothing, ends the unit and sets STATUS.OVF; BUF_LEN, the buffer and the PES set
keep their values (43_pes_assembler.md section 2, R258 and R259). -/
def Obligations.AbsorbOverflowAppendsNothing : Prop :=
  ∀ s : State, Accepted s → Pays s → s.ts.pusi = false → s.asm.active = true → ¬Fits s →
    ∃ t, exec .absorb s = .next t ∧ t.result = ⟨.bufferOverflow, 0⟩ ∧ t.ovf = true ∧
      t.asm = { s.asm with
        active := false, lastCc := s.ts.cc, stuffTotal := s.asm.stuffTotal + BitVec.ofNat 32 (packetStuff s) } ∧
      t.pesBuf = s.pesBuf ∧ t.pes = s.pes ∧ t.port = portAfterStuff s

/-- 43_pes_assembler.md R253: a unit start whose header fails leaves Idle, an empty buffer, this packet's stuffing, the
start code read, and the counter; a continuation after it is LOST_OUT_OF_SYNC. -/
def Obligations.HeaderFailureAbandonsUnit : Prop :=
  ∀ s : State, Accepted s → Pays s → s.ts.pusi = true → ¬GoodStart s →
    ∃ t, exec .absorb s = .next t ∧ t.result = ⟨.invalidStartCode, 0⟩ ∧
      t.asm = { s.asm with
        active := false, bufLen := 0, lastCc := s.ts.cc, stuffTotal := BitVec.ofNat 32 (packetStuff s) } ∧
      t.pes =
        { PesRegs.zero with startPrefix := BitVec.ofNat 24 (startNat s.frame (drawsAfterStuff s) (offRef s)) } ∧
      t.pesBuf = s.pesBuf ∧
      ∀ p : Packet, p.ts.pid = t.asm.targetPid → p.ts.pusi = false → Pays (feed t p) →
        ∃ u, exec .absorb (feed t p) = .next u ∧ u.result = ⟨.lostOutOfSync, 0⟩

/-- 43_pes_assembler.md R261: what ABSORB may write, and when. -/
def Obligations.AbsorbWrites : Prop :=
  ∀ s : State, s.params.legal → s.asm.bufLen.toNat ≤ s.params.pesBufCap →
    ∃ t, exec .absorb s = .next t ∧
      t = { s with
        asm := t.asm, pes := t.pes, pesBuf := { s.pesBuf with cells := t.pesBuf.cells }, ovf := t.ovf, port := t.port
        result := t.result } ∧
      t.asm.targetPid = s.asm.targetPid ∧
      (¬(Accepted s ∧ Pays s ∧ s.ts.pusi = true) → t.pes = s.pes) ∧
      (t.result.value = 0 → t.pesBuf = s.pesBuf) ∧
      (∀ i, ¬(t.asm.bufLen.toNat - t.result.value.toNat ≤ i ∧ i < t.asm.bufLen.toNat) →
        Memory.read? t.pesBuf.cells i = Memory.read? s.pesBuf.cells i) ∧
      (t.result.value ≠ 0 →
        t.result.code = .started ∨ t.result.code = .continues ∨ t.result.code = .finished) ∧
      (t.ovf = true ↔ s.ovf = true ∨ t.result.code = .bufferOverflow) ∧
      t.port = absorbPortRef s ∧
      (t.port = s.port ∨ (t.port.oob = true ∧ s.port.draws < t.port.draws))

/-- With 65,724 ≤ PES_BUF_CAP, only a unit with PKT_LEN = 0 can overflow, unless PES.PKT_LEN was changed during the unit so
that the buffer already holds 6 + PKT_LEN bytes (43_pes_assembler.md section 2, R258; 70_reset_and_hazards.md R364). -/
def Obligations.BoundedUnitsNeverOverflow : Prop :=
  ∀ s : State, s.params.legal → s.pes.pktLen ≠ 0 → s.asm.bufLen.toNat < 6 + s.pes.pktLen.toNat →
    ∃ t, exec .absorb s = .next t ∧ t.result.code ≠ .bufferOverflow

/-- A unit with PKT_LEN = 0 never finishes by a continuation, and stays unbounded (43_pes_assembler.md section 2, R254;
70_reset_and_hazards.md R364 and R366). -/
def Obligations.UnboundedUnitNeverFinishes : Prop :=
  ∀ s : State, s.pes.pktLen = 0 → ¬(s.ts.pusi = true ∧ Pays s) →
    ∃ t, exec .absorb s = .next t ∧ t.result.code ≠ .finished ∧ t.pes = s.pes

/-- Payload packets of the target whose counters run on without a gap are never a continuity loss, wherever units start and
end (the first half of the property of 43_pes_assembler.md section 4, R269). -/
def Obligations.NoGapNoContinuityLoss : Prop :=
  ∀ (s : State) (ps : List Packet) (c : BitVec 4), Consecutive s.asm.targetPid c ps →
    (s.asm.active = true → c = s.asm.lastCc + 1) →
    ∃ t codes, absorbRun s ps = some (t, codes) ∧ ResultCode.lostContinuity ∉ codes

/-- One gap in the counters during a unit gives exactly one continuity loss, at the first packet after it (the second half of
the property of 43_pes_assembler.md section 4, R269). -/
def Obligations.OneGapOneContinuityLoss : Prop :=
  ∀ (s t : State) (ps qs : List Packet) (c d : BitVec 4) (before : List ResultCode),
    Consecutive s.asm.targetPid c ps → (s.asm.active = true → c = s.asm.lastCc + 1) →
    absorbRun s ps = some (t, before) → t.asm.active = true →
    Consecutive s.asm.targetPid d qs → qs ≠ [] → d ≠ t.asm.lastCc + 1 →
    ∃ u after, absorbRun s (ps ++ qs) = some (u, before ++ .lostContinuity :: after) ∧
      ResultCode.lostContinuity ∉ before ∧ ResultCode.lostContinuity ∉ after

/-! ### FRAME -/

/-- 44_frame_and_control.md R294: FRAME leaves what TSPARSE, AFPARSE, AFSTUFF, ABSORB leave when the parses return OK (for
frames read inside the frame, so that no draw differs), and what the shorter sequence leaves otherwise. -/
def Obligations.FrameEqualsCommandSequence : Prop :=
  ∀ s t1 t2 t3 t4 : State,
    exec .tsparse s = .next t1 → exec .afparse t1 = .next t2 → exec .afstuff t2 = .next t3 →
    exec .absorb t3 = .next t4 →
    (t1.result.code ≠ .ok → exec .frame s = .next t1) ∧
    (t1.result.code = .ok → t2.result.code ≠ .ok → exec .frame s = .next t2) ∧
    (t1.result.code = .ok → t2.result.code = .ok → t4.port.draws = s.port.draws → exec .frame s = .next t4)

/-- 44_frame_and_control.md R292: a failed parse ends FRAME, and the assembler does not see the frame. -/
def Obligations.FrameStopsOnFailedParse : Prop :=
  ∀ s : State,
    (s.frame.byte 0 ≠ s.params.syncByte →
      exec .frame s =
        .next { s with ts := ⟨s.frame.byte 0, false, false, false, 0, 0, 0, 0⟩, result := ⟨.invalidSync, 0⟩ }) ∧
    (s.frame.byte 0 = s.params.syncByte → TooLong s.frame (tsRef s.frame).afc →
      exec .frame s =
        .next
          { s with
            ts := tsRef s.frame
            af := ⟨(tsRef s.frame).afc, 0, 0, 0, 0, 0, 0, 0, 0, 0, 0, 0, 0⟩
            result := ⟨.invalidLength, 0⟩ })

/-- 44_frame_and_control.md R293: what FRAME may write, and when; a frame of another identifier reaches the TS and AF sets and
reports UNEXPECTED_ID(0). FRAME draws what its four stages draw in turn, the draws the same (log 3). -/
def Obligations.FrameWrites : Prop :=
  ∀ s : State, s.params.legal → s.asm.bufLen.toNat ≤ s.params.pesBufCap →
    let badSync := s.frame.byte 0 ≠ s.params.syncByte
    let failed := badSync ∨ TooLong s.frame (tsRef s.frame).afc
    ∃ t, exec .frame s = .next t ∧
      t = { s with
        ts := t.ts, af := t.af, asm := t.asm, pes := t.pes, pesBuf := { s.pesBuf with cells := t.pesBuf.cells }
        ovf := t.ovf, port := t.port, result := t.result } ∧
      t.asm.targetPid = s.asm.targetPid ∧
      (badSync → t.af = s.af) ∧
      (failed → t.asm = s.asm ∧ t.pes = s.pes ∧ t.pesBuf = s.pesBuf ∧ t.ovf = s.ovf ∧ t.port = s.port) ∧
      (¬failed → (tsRef s.frame).pid ≠ s.asm.targetPid → t.result = ⟨.unexpectedId, 0⟩) ∧
      ((tsRef s.frame).pusi = false → t.pes = s.pes) ∧
      (∀ i, ¬(t.asm.bufLen.toNat - t.result.value.toNat ≤ i ∧ i < t.asm.bufLen.toNat) →
        Memory.read? t.pesBuf.cells i = Memory.read? s.pesBuf.cells i) ∧
      (t.ovf = true ↔ s.ovf = true ∨ t.result.code = .bufferOverflow) ∧
      (¬failed → ∀ t1 t2 t3 : State, exec .tsparse s = .next t1 → exec .afparse t1 = .next t2 →
        exec .afstuff t2 = .next t3 → t.port = absorbPortRef t3) ∧
      (t.port = s.port ∨ (t.port.oob = true ∧ s.port.draws < t.port.draws))

/-- A frame of another identifier: FRAME decodes its header and adaptation field, and the assembler, the PES set and the
buffers keep their values (44_frame_and_control.md section 1, R293). -/
def Obligations.FrameOfOtherPid : Prop :=
  ∀ s : State, s.frame.byte 0 = s.params.syncByte → ¬TooLong s.frame (tsRef s.frame).afc →
    (tsRef s.frame).pid ≠ s.asm.targetPid →
    ∃ t, exec .frame s = .next t ∧ t.result = ⟨.unexpectedId, 0⟩ ∧ t.ts = tsRef s.frame ∧
      t = { s with ts := t.ts, af := t.af, port := t.port, result := t.result } ∧
      (¬HasField t.ts.afc → t.af = ⟨t.ts.afc, 0, 0, 0, 0, 0, 0, 0, 0, 0, 0, 0, 0⟩) ∧
      (HasField t.ts.afc → { t.af with stuff := 0 } = afFieldRef s.frame t.ts.afc)

/-- The source's end-to-end property (43_pes_assembler.md section 4, R268): a unit that spans exactly two payload-only frames
gives STARTED then FINISHED, and the buffer holds both payloads; BUF_LEN is 6 + PKT_LEN exactly when PKT_LEN is 362. -/
def Obligations.TwoFrameUnitAssembled : Prop :=
  ∀ (s : State) (f1 f2 : FrameBuf) (cc : BitVec 4), s.params.legal → s.asm.active = false →
    PayloadOnlyFrame f1 s.params.syncByte s.asm.targetPid true cc →
    PayloadOnlyFrame f2 s.params.syncByte s.asm.targetPid false (cc + 1) →
    beNat f1 4 3 = 1 → 184 < 6 + beNat f1 8 2 → 6 + beNat f1 8 2 ≤ 368 →
    ∃ t1 t2, exec .frame { s with frame := f1 } = .next t1 ∧ t1.result = res .started 184 ∧
      t1.asm.active = true ∧
      exec .frame { t1 with frame := f2 } = .next t2 ∧ t2.result = res .finished 184 ∧ t2.asm.active = false ∧
      t2.asm.bufLen = 368 ∧ t2.pes.pktLen.toNat = beNat f1 8 2 ∧
      (∀ i < 184, t2.pesBuf.byte 368 i = f1.byte (4 + i)) ∧
      (∀ i < 184, t2.pesBuf.byte 368 (184 + i) = f2.byte (4 + i))

/-! ### The whole machine -/

/-- 44_frame_and_control.md R302: a parse after a CLEAR leaves the set a parse alone leaves, and the set depends on the parse's
inputs alone (unless a read passes the frame). -/
def Obligations.ParseAfterClearSame : Prop :=
  ∀ (s s' t t' u : State) (m : Byte) (i : Instr),
    i = .tsparse ∨ i = .afparse ∨ (∃ p : Byte, p.toNat ≤ 187 ∧ i = .pesparse p) →
    s'.frame = s.frame → s'.params = s.params →
    exec i s = .next t → t.port.draws = s.port.draws →
    (exec i s' = .next t' → (i = .afparse → s'.ts.afc = s.ts.afc) →
      (i = .tsparse → t'.ts = t.ts) ∧ (i = .afparse → t'.af = t.af) ∧ (i ≠ .tsparse → i ≠ .afparse → t'.pes = t.pes)) ∧
    (exec (.clear m) s = .next u → exec i u = .next t' → (i = .afparse → m.getLsbD 0 = false) →
      (i = .tsparse → t'.ts = t.ts) ∧ (i = .afparse → t'.af = t.af) ∧ (i ≠ .tsparse → i ≠ .afparse → t'.pes = t.pes))

/-- Which commands write which register set (10_state.md sections 2 to 5, 20_memory.md section 3): nothing else does. -/
def Obligations.RegisterSetWriters : Prop :=
  ∀ (i : Instr) (s : State), ∃ t, exec i s = .next t ∧
    t.frame = s.frame ∧ t.params = s.params ∧ t.hostQueue = s.hostQueue ∧ t.busData = s.busData ∧
    t.inReset = s.inReset ∧ t.pesBuf.epoch = s.pesBuf.epoch ∧
    (t.ts ≠ s.ts → i = .tsparse ∨ i = .frame ∨ ∃ m : Byte, m.getLsbD 0 = true ∧ i = .clear m) ∧
    (t.af ≠ s.af → i = .afparse ∨ i = .afstuff ∨ i = .frame ∨ ∃ m : Byte, m.getLsbD 1 = true ∧ i = .clear m) ∧
    (i = .afstuff → t.af = { s.af with stuff := t.af.stuff }) ∧
    (t.pes ≠ s.pes →
      (∃ p, i = .pesparse p) ∨ i = .absorb ∨ i = .frame ∨ (∃ m : Byte, m.getLsbD 2 = true ∧ i = .clear m) ∨
        ∃ pid, i = .init pid) ∧
    (t.pesBuf.cells ≠ s.pesBuf.cells → i = .absorb ∨ i = .frame) ∧
    (t.result ≠ s.result → i ≠ .nop)

/-- 10_state.md R44: INIT, ABSORB, FRAME's last stage and reset are all that writes the assembler; no host access other than
a CMD write does. -/
def Obligations.AssemblerWriters : Prop :=
  (∀ (i : Instr) (s t : State), exec i s = .next t → t.asm ≠ s.asm →
    (∃ pid, i = .init pid) ∨ i = .absorb ∨
      (i = .frame ∧ t.result.code ≠ .invalidSync ∧ t.result.code ≠ .invalidLength)) ∧
  (∀ (s t : State), step s = .next t → t.asm ≠ s.asm →
    (∃ w rest, CmdPending s w rest) ∨ (s.inReset = true ∧ ∃ rest, s.hostQueue = .releaseReset :: rest ∧
      t.asm = ⟨0, false, 0, 0, 0⟩)) ∧
  (∀ (m : Byte) (s t : State), exec (.clear m) s = .next t → t.asm = s.asm)

/-- 10_state.md R43: the state each of ABSORB's results leaves the assembler in. -/
def Obligations.AbsorbResultsAndStates : Prop :=
  ∀ s : State, ∃ t, exec .absorb s = .next t ∧
    match t.result.code with
    | .started | .continues => t.asm.active = true
    | .finished | .lostContinuity | .lostOutOfSync | .lostNoPayload | .bufferOverflow | .invalidStartCode =>
      t.asm.active = false
    | .unexpectedId => t.asm = s.asm
    | .none | .ok | .invalidSync | .invalidLength | .invalidInput | .illegalCommand => False

/-- A command's effect does not depend on RESULT (60_exceptions.md section 1, R324): two states that differ in RESULT alone
give the same next state, or, for NOP, next states that differ in RESULT alone. -/
def Obligations.ResultIsNoInput : Prop :=
  ∀ (i : Instr) (s : State) (r : Result),
    ∃ t, exec i s = .next t ∧
      exec i { s with result := r } = .next (if i = .nop then { t with result := r } else t)

/-- 60_exceptions.md R323: STATUS.OOB is set by exactly the commands that draw and STATUS.OVF by exactly those that report
BUFFER_OVERFLOW; a command other than CLEAR with IMM8[3] = 1 leaves a flag that is set; a step that clears one is such a
CLEAR or the release of reset. -/
def Obligations.StickyFlags : Prop :=
  (∀ (i : Instr) (s t : State), exec i s = .next t →
    s.port.draws ≤ t.port.draws ∧
    (t.port.oob = true ↔
      s.port.draws < t.port.draws ∨
        (s.port.oob = true ∧ ¬∃ m : Byte, m.getLsbD 3 = true ∧ i = .clear m)) ∧
    (t.ovf = true ↔
      (i ≠ .nop ∧ t.result.code = .bufferOverflow) ∨
        (s.ovf = true ∧ ¬∃ m : Byte, m.getLsbD 3 = true ∧ i = .clear m))) ∧
  (∀ s t : State, step s = .next t →
    (s.port.oob = true ∧ t.port.oob = false) ∨ (s.ovf = true ∧ t.ovf = false) →
    (∃ (w : Word) (rest : List HostEvent) (m : Byte),
      CmdPending s w rest ∧ decode w = .ok (.clear m) ∧ m.getLsbD 3 = true) ∨
    (s.inReset = true ∧ ∃ rest, s.hostQueue = .releaseReset :: rest))

/-- No command writes the frame buffer, and only the host's FRAME writes and reset change it (20_memory.md section 3, R68;
70_reset_and_hazards.md R361). -/
def Obligations.FrameBufferWriters : Prop :=
  ∀ s t : State, step s = .next t → t.frame ≠ s.frame →
    (s.inReset = true ∧ ∃ rest, s.hostQueue = .releaseReset :: rest) ∨
      ∃ (a : Addr) (w : Word) (rest : List HostEvent) (k : Nat), s.hostQueue = .write a .word w :: rest ∧ k < 47 ∧
        a.toNat = 0x400 + 4 * k ∧ ∀ i, i / 4 ≠ k → t.frame.byte i = s.frame.byte i

/-- The state right after reset is legal (10_state.md R28, R34, R42; the values of the model's own fields are log 1 to
log 7). -/
def Obligations.ResetIsLegal : Prop := State.reset.Inv

/-- Every step keeps the legal states legal: the clocks exact, LEN, STUFF, the PES fields and BUF_LEN within their legal
values, the unit's bytes stored, both memories in canonical form, RESULT a code some command writes (10_state.md sections 2
to 6, 20_memory.md section 3). -/
def Obligations.StepKeepsLegal : Prop :=
  ∀ s t : State, s.Inv → step s = .next t → t.Inv
end

