-- ==== Sys2Proof/Laws/Memory.lean ====
section
/-! SUPPORT. The laws of sparse memory: read after write, a write elsewhere, and that a write keeps the canonical form and
the bound. -/

namespace Sys2Proof.Machine

@[simp] theorem Memory.read?_nil (a : Nat) : Memory.read? [] a = none := rfl

theorem Memory.read?_cons (k : Nat) (v : Byte) (m : List Host.Cell) (a : Nat) :
    Memory.read? ((k, v) :: m) a = if k = a then some v else Memory.read? m a := rfl

theorem Memory.read?_write (m : List Host.Cell) (a b : Nat) (v : Byte) :
    Memory.read? (Memory.write m a v) b = if b = a then some v else Memory.read? m b := by
  induction m with
  | nil => simp [Memory.write, Memory.read?_cons, eq_comm]
  | cons c m ih =>
    obtain ⟨k, w⟩ := c
    simp only [Memory.write]
    split
    · simp [Memory.read?_cons, eq_comm]
    · split
      · subst k; by_cases h : b = a <;> simp [Memory.read?_cons, h, Ne.symm]
      · rename_i h
        simp only [Memory.read?_cons, ih]
        by_cases hk : k = b
        · subst hk; simp [Ne.symm h]
        · simp [hk]

/-- Read after write at the same address. -/
@[simp] theorem Memory.read?_write_same (m : List Host.Cell) (a : Nat) (v : Byte) :
    Memory.read? (Memory.write m a v) a = some v := by simp [Memory.read?_write]

/-- A write leaves every other address alone. -/
theorem Memory.read?_write_other (m : List Host.Cell) {a b : Nat} (v : Byte) (h : b ≠ a) :
    Memory.read? (Memory.write m a v) b = Memory.read? m b := by simp [Memory.read?_write, h]

theorem Memory.risingFrom_write {m : List Host.Cell} {lo a : Nat} (v : Byte) (hm : Memory.risingFrom lo m = true)
    (ha : lo ≤ a) : Memory.risingFrom lo (Memory.write m a v) = true := by
  induction m generalizing lo with
  | nil => simp [Memory.write, Memory.risingFrom, ha]
  | cons c m ih =>
    obtain ⟨k, w⟩ := c
    simp only [Memory.risingFrom, Bool.and_eq_true, decide_eq_true_eq] at hm
    simp only [Memory.write]
    split
    · simp only [Memory.risingFrom, Bool.and_eq_true, decide_eq_true_eq]; exact ⟨ha, by omega, hm.2⟩
    · split
      · subst k; simpa [Memory.risingFrom] using hm
      · simp only [Memory.risingFrom, Bool.and_eq_true, decide_eq_true_eq]; exact ⟨hm.1, ih hm.2 (by omega)⟩

/-- A write keeps the canonical form. -/
theorem Memory.wf_write {m : List Host.Cell} (a : Nat) (v : Byte) (hm : Memory.wf m = true) :
    Memory.wf (Memory.write m a v) = true := Memory.risingFrom_write v hm (Nat.zero_le _)

/-- A write below the bound keeps every address below the bound. -/
theorem Memory.below_write {bound : Nat} {m : List Host.Cell} {a : Nat} (v : Byte) (hm : Memory.below bound m = true)
    (ha : a < bound) : Memory.below bound (Memory.write m a v) = true := by
  simp only [Memory.below, List.all_eq_true, decide_eq_true_eq] at hm ⊢
  induction m with
  | nil => simpa [Memory.write] using ha
  | cons c m ih =>
    obtain ⟨k, w⟩ := c
    simp only [List.mem_cons, forall_eq_or_imp] at hm
    simp only [Memory.write]
    split
    · simpa [ha] using hm
    · split
      · simpa [ha] using hm.2
      · simp only [List.mem_cons, forall_eq_or_imp]; exact ⟨hm.1, ih hm.2⟩

theorem Memory.read?_of_risingFrom {m : List Host.Cell} {lo a : Nat} (hm : Memory.risingFrom lo m = true) (ha : a < lo) :
    Memory.read? m a = none := by
  induction m generalizing lo with
  | nil => rfl
  | cons c m ih =>
    obtain ⟨k, w⟩ := c
    simp only [Memory.risingFrom, Bool.and_eq_true, decide_eq_true_eq] at hm
    rw [Memory.read?_cons, if_neg (by omega)]
    exact ih hm.2 (by omega)

theorem Memory.risingFrom_ext {m m' : List Host.Cell} {lo : Nat} (hm : Memory.risingFrom lo m = true)
    (hm' : Memory.risingFrom lo m' = true) (h : ∀ a, Memory.read? m a = Memory.read? m' a) : m = m' := by
  induction m generalizing m' lo with
  | nil =>
    cases m' with
    | nil => rfl
    | cons c _ => obtain ⟨k, w⟩ := c; simpa [Memory.read?_cons] using h k
  | cons c m ih =>
    obtain ⟨k, w⟩ := c
    cases m' with
    | nil => simpa [Memory.read?_cons] using h k
    | cons c' m' =>
      obtain ⟨k', w'⟩ := c'
      simp only [Memory.risingFrom, Bool.and_eq_true, decide_eq_true_eq] at hm hm'
      have hk : k = k' := by
        rcases Nat.lt_trichotomy k k' with hlt | heq | hgt
        · have := h k
          rw [Memory.read?_cons, if_pos rfl, Memory.read?_cons, if_neg (by omega),
            Memory.read?_of_risingFrom hm'.2 (by omega)] at this
          cases this
        · exact heq
        · have := h k'
          rw [Memory.read?_cons, if_neg (by omega), Memory.read?_of_risingFrom hm.2 (by omega), Memory.read?_cons,
            if_pos rfl] at this
          cases this
      subst hk
      have hw : w = w' := by simpa [Memory.read?_cons] using h k
      subst hw
      rw [ih hm.2 hm'.2]
      intro a
      by_cases hka : k = a
      · subst hka
        rw [Memory.read?_of_risingFrom hm.2 (by omega), Memory.read?_of_risingFrom hm'.2 (by omega)]
      · simpa [Memory.read?_cons, hka] using h a

/-- Two memories in canonical form that read alike everywhere are equal data. -/
theorem Memory.ext {m m' : List Host.Cell} (hm : Memory.wf m = true) (hm' : Memory.wf m' = true)
    (h : ∀ a, Memory.read? m a = Memory.read? m' a) : m = m' := Memory.risingFrom_ext hm hm' h

/-! ### Frame bytes -/

@[simp] theorem FrameBuf.setByte_byte_same (f : FrameBuf) (i : Nat) (v : Byte) : (f.setByte i v).byte i = v := by
  simp [FrameBuf.byte, FrameBuf.setByte]

theorem FrameBuf.setByte_byte (f : FrameBuf) (i j : Nat) (v : Byte) :
    (f.setByte i v).byte j = if j = i then v else f.byte j := by
  by_cases h : j = i <;> simp [FrameBuf.byte, FrameBuf.setByte, Memory.read?_write, h]

end Sys2Proof.Machine
end

