-- ==== Sys2Proof/Laws/Reading.lean ====
section
/-! SUPPORT. What a computation that reads the frame can do: the value of a read inside the frame, and, for every decoder,
that it only advances the draws, setting STATUS.OOB exactly when it does (20_memory.md R70). -/

namespace Sys2Proof.Machine

/-! ### Running a reading -/

theorem Reading.pure_apply {α : Type} (a : α) (p : Port) : (pure a : Reading α) p = (a, p) := rfl

theorem Reading.bind_apply {α β : Type} (m : Reading α) (k : α → Reading β) (p : Port) :
    (m >>= k) p = k (m p).1 (m p).2 := rfl

theorem Reading.map_apply {α β : Type} (g : α → β) (m : Reading α) (p : Port) :
    (g <$> m) p = (g (m p).1, (m p).2) := rfl

theorem Reading.ite_apply {α : Type} (c : Prop) [Decidable c] (m k : Reading α) (p : Port) :
    (if c then m else k) p = if c then m p else k p := by split <;> rfl

/-- A read inside the frame gives the byte and changes nothing. -/
theorem FrameBuf.get_inside (f : FrameBuf) {i : Nat} (h : i < 188) (p : Port) : f.get i p = (f.byte i, p) := by
  rw [FrameBuf.get, if_pos (show i < frameLen from h)]; rfl

/-- A read past the frame is a draw. -/
theorem FrameBuf.get_outside (f : FrameBuf) {i : Nat} (h : 188 ≤ i) (p : Port) :
    f.get i p = (Config.freeByte p.draws, { oob := true, draws := p.draws + 1 }) := by
  rw [FrameBuf.get, if_neg (show ¬ i < frameLen from by unfold frameLen; omega)]; rfl

/-- `Clock` inside the frame (41_adaptation_field.md R164). -/
theorem FrameBuf.clock_inside (f : FrameBuf) {a : Nat} (h : a + 5 < 188) (p : Port) :
    f.clock a p =
      ((clockBase (f.byte a) (f.byte (a + 1)) (f.byte (a + 2)) (f.byte (a + 3)) (f.byte (a + 4)),
        clockExt (f.byte (a + 4)) (f.byte (a + 5))), p) := by
  simp only [FrameBuf.clock, Reading.bind_apply, Reading.pure_apply, f.get_inside (show a < 188 by omega),
    f.get_inside (show a + 1 < 188 by omega), f.get_inside (show a + 2 < 188 by omega),
    f.get_inside (show a + 3 < 188 by omega), f.get_inside (show a + 4 < 188 by omega), f.get_inside h]

/-- `Stamp` inside the frame (42_pes_header.md R207). -/
theorem FrameBuf.stamp_inside (f : FrameBuf) {a : Nat} (h : a + 4 < 188) (p : Port) :
    f.stamp a p =
      (stampValue (f.byte a) (f.byte (a + 1)) (f.byte (a + 2)) (f.byte (a + 3)) (f.byte (a + 4)), p) := by
  simp only [FrameBuf.stamp, Reading.bind_apply, Reading.pure_apply, f.get_inside (show a < 188 by omega),
    f.get_inside (show a + 1 < 188 by omega), f.get_inside (show a + 2 < 188 by omega),
    f.get_inside (show a + 3 < 188 by omega), f.get_inside h]

/-! ### The port only advances -/

/-- `q` is what `p` becomes by some reads: no draw and nothing changed, or draws and STATUS.OOB set. -/
def Port.Reaches (p q : Port) : Prop := q = p ∨ (q.oob = true ∧ p.draws < q.draws)

theorem Port.Reaches.refl (p : Port) : p.Reaches p := .inl rfl

theorem Port.Reaches.trans {p q r : Port} (h : p.Reaches q) (k : q.Reaches r) : p.Reaches r := by
  rcases h with rfl | h
  · exact k
  · rcases k with rfl | k
    · exact .inr h
    · exact .inr ⟨k.1, h.2.trans k.2⟩

/-- A reading whose only effect is on the port, and only by draws. -/
def Reading.Tidy {α : Type} (m : Reading α) : Prop := ∀ p : Port, p.Reaches (m p).2

theorem Reading.Tidy.pure {α : Type} (a : α) : (Pure.pure a : Reading α).Tidy := fun p => .refl p

theorem Reading.Tidy.bind {α β : Type} {m : Reading α} {k : α → Reading β} (hm : m.Tidy) (hk : ∀ a, (k a).Tidy) :
    (m >>= k).Tidy := fun p => (hm p).trans (hk _ _)

theorem Reading.Tidy.ite {α : Type} {c : Prop} [Decidable c] {m k : Reading α} (hm : m.Tidy) (hk : k.Tidy) :
    (if c then m else k).Tidy := by split <;> assumption

theorem FrameBuf.get_tidy (f : FrameBuf) (i : Nat) : (f.get i).Tidy := by
  intro p
  by_cases h : i < 188
  · rw [f.get_inside h]; exact .refl p
  · rw [f.get_outside (by omega)]; exact .inr ⟨rfl, Nat.lt_succ_self _⟩

open Reading.Tidy in
theorem FrameBuf.clock_tidy (f : FrameBuf) (a : Nat) : (f.clock a).Tidy :=
  bind (f.get_tidy _) fun _ => bind (f.get_tidy _) fun _ => bind (f.get_tidy _) fun _ => bind (f.get_tidy _) fun _ =>
    bind (f.get_tidy _) fun _ => bind (f.get_tidy _) fun _ => pure _

open Reading.Tidy in
theorem FrameBuf.stamp_tidy (f : FrameBuf) (a : Nat) : (f.stamp a).Tidy :=
  bind (f.get_tidy _) fun _ => bind (f.get_tidy _) fun _ => bind (f.get_tidy _) fun _ => bind (f.get_tidy _) fun _ =>
    bind (f.get_tidy _) fun _ => pure _

open Reading.Tidy in
theorem FrameBuf.tsParse_tidy (f : FrameBuf) (sync : Byte) : (f.tsParse sync).Tidy :=
  bind (f.get_tidy _) fun _ => ite (pure _) <|
    bind (f.get_tidy _) fun _ => bind (f.get_tidy _) fun _ => bind (f.get_tidy _) fun _ => pure _

open Reading.Tidy in
theorem FrameBuf.afWalk_tidy (f : FrameBuf) (l : Nat) (w : AfRegs × Nat) : (f.afWalk l w).Tidy :=
  bind (ite (bind (f.clock_tidy _) fun _ => pure _) (pure _)) fun _ =>
    bind (ite (bind (f.clock_tidy _) fun _ => pure _) (pure _)) fun _ =>
      bind (ite (bind (f.get_tidy _) fun _ => pure _) (pure _)) fun _ =>
        bind (ite (bind (f.get_tidy _) fun _ => ite (pure _) (pure _)) (pure _)) fun _ =>
          ite (bind (f.get_tidy _) fun _ => ite (pure _) (pure _)) (pure _)

open Reading.Tidy in
theorem FrameBuf.afParse_tidy (f : FrameBuf) (c : BitVec 2) : (f.afParse c).Tidy :=
  ite (pure _) <| bind (f.get_tidy _) fun _ => ite (pure _) <| ite (pure _) <|
    bind (f.get_tidy _) fun _ => bind (f.afWalk_tidy _ _) fun _ => pure _

open Reading.Tidy in
theorem FrameBuf.stuffPrefixed_tidy (f : FrameBuf) (b : Bool) (u : Nat × Nat) : (f.stuffPrefixed b u).Tidy :=
  ite (bind (f.get_tidy _) fun _ => pure _) (pure _)

open Reading.Tidy in
theorem FrameBuf.stuffing_tidy (f : FrameBuf) (a : AfRegs) : (f.stuffing a).Tidy :=
  ite (pure _) <| bind (f.stuffPrefixed_tidy _ _) fun _ => bind (f.stuffPrefixed_tidy _ _) fun _ => pure _

open Reading.Tidy in
theorem FrameBuf.pesExtension_tidy (f : FrameBuf) (p : Nat) (h : PesRegs) : (f.pesExtension p h).Tidy := by
  unfold FrameBuf.pesExtension
  refine bind (f.get_tidy _) fun _ => bind (f.get_tidy _) fun fl2 => bind (f.get_tidy _) fun _ => ?_
  by_cases h1 : (ptsDts fl2).getLsbD 1 = true <;> by_cases h2 : ptsDts fl2 = 3 <;> simp only [h1, h2, if_true, if_false]
  all_goals
    first
    | exact bind (f.stamp_tidy _) fun _ => bind (f.stamp_tidy _) fun _ => pure _
    | exact bind (f.stamp_tidy _) fun _ => bind (pure _) fun _ => pure _
    | exact bind (pure _) fun _ => bind (f.stamp_tidy _) fun _ => pure _
    | exact bind (pure _) fun _ => bind (pure _) fun _ => pure _

open Reading.Tidy in
theorem FrameBuf.pesParse_tidy (f : FrameBuf) (p : Nat) : (f.pesParse p).Tidy :=
  bind (f.get_tidy _) fun _ => bind (f.get_tidy _) fun _ => bind (f.get_tidy _) fun _ => ite (pure _) <|
    bind (f.get_tidy _) fun _ => bind (f.get_tidy _) fun _ => bind (f.get_tidy _) fun _ => ite (pure _) <|
      f.pesExtension_tidy _ _

end Sys2Proof.Machine
end

