-- ==== Sys2Proof/Laws/Append.lean ====
section
/-! SUPPORT. Everything the copy loop of `Append` (20_memory.md R73) can do. -/

namespace Sys2Proof.Machine

/-- The copy of bytes inside the frame leaves the port alone. -/
theorem appendLoop_port (f : FrameBuf) {n src : Nat} (h : src + n ≤ 188) (dst : Nat) (cells : List Host.Cell) (p : Port) :
    (appendLoop f n src dst cells p).2 = p := by
  induction n generalizing src dst cells with
  | zero => rfl
  | succ n ih =>
    simp only [appendLoop, Reading.bind_apply, f.get_inside (show src < 188 by omega)]
    exact ih (by omega) _ _

/-- Wherever the copy reads, it only advances the draws. -/
theorem appendLoop_tidy (f : FrameBuf) (n src dst : Nat) (cells : List Host.Cell) :
    (appendLoop f n src dst cells).Tidy := by
  induction n generalizing src dst cells with
  | zero => exact .pure _
  | succ n ih => exact .bind (f.get_tidy _) fun _ => ih _ _ _

/-- The copy puts the frame bytes at the buffer indices from `dst` on and leaves every other buffer byte alone. -/
theorem appendLoop_read? (f : FrameBuf) {n src : Nat} (h : src + n ≤ 188) (dst : Nat) (cells : List Host.Cell) (p : Port)
    (i : Nat) :
    Memory.read? (appendLoop f n src dst cells p).1 i =
      if dst ≤ i ∧ i < dst + n then some (f.byte (src + (i - dst))) else Memory.read? cells i := by
  induction n generalizing src dst cells with
  | zero => rw [if_neg (by omega)]; rfl
  | succ n ih =>
    simp only [appendLoop, Reading.bind_apply, f.get_inside (show src < 188 by omega)]
    rw [ih (by omega), bufWrite, Memory.read?_write]
    by_cases hi : i = dst
    · subst hi; rw [if_neg (by omega), if_pos rfl, if_pos (by omega), Nat.sub_self, Nat.add_zero]
    · rw [if_neg hi]
      by_cases hin : dst + 1 ≤ i ∧ i < dst + 1 + n
      · rw [if_pos hin, if_pos (by omega), show src + 1 + (i - (dst + 1)) = src + (i - dst) by omega]
      · rw [if_neg hin, if_neg (by omega)]

/-- The copy keeps the canonical form. -/
theorem appendLoop_wf (f : FrameBuf) (n src dst : Nat) {cells : List Host.Cell} (p : Port)
    (h : Memory.wf cells = true) : Memory.wf (appendLoop f n src dst cells p).1 = true := by
  induction n generalizing src dst cells p with
  | zero => exact h
  | succ n ih => exact ih _ _ _ (Memory.wf_write _ _ h)

/-- The copy keeps every listed address below a bound that the copied range is below. -/
theorem appendLoop_below (f : FrameBuf) (n src : Nat) {bound dst : Nat} {cells : List Host.Cell} (p : Port)
    (h : Memory.below bound cells = true) (hb : dst + n ≤ bound) :
    Memory.below bound (appendLoop f n src dst cells p).1 = true := by
  induction n generalizing src dst cells p with
  | zero => exact h
  | succ n ih => exact ih _ _ (Memory.below_write _ h (by omega)) (by omega)

end Sys2Proof.Machine
end

