-- ==== Sys2Proof/Laws/Commands.lean ====
section
/-! SUPPORT. What each command body can do, said once: the state it leaves differs from the one it got in the named fields
alone, and the port only advances. -/

namespace Sys2Proof.Machine

/-! ### The decoders -/

/-- TSPARSE reads inside the frame only. -/
theorem FrameBuf.tsParse_port (f : FrameBuf) (sync : Byte) (p : Port) : (f.tsParse sync p).2 = p := by
  simp only [FrameBuf.tsParse, Reading.bind_apply, Reading.ite_apply, Reading.pure_apply,
    f.get_inside (show 0 < 188 by decide), f.get_inside (show 1 < 188 by decide), f.get_inside (show 2 < 188 by decide),
    f.get_inside (show 3 < 188 by decide)]
  split <;> rfl

/-- TSPARSE's body changes the TS set alone. -/
theorem tsBody_state (s : State) : (tsBody s).1 = { s with ts := (tsBody s).1.ts } := by
  simp only [tsBody, FrameBuf.tsParse_port]

/-- AFPARSE's body changes the AF set and the port alone. -/
theorem afBody_state (s : State) : (afBody s).1 = { s with af := (afBody s).1.af, port := (afBody s).1.port } := rfl

theorem afBody_port (s : State) : s.port.Reaches (afBody s).1.port := FrameBuf.afParse_tidy _ _ _

/-- AFSTUFF's body changes AF.STUFF and the port alone. -/
theorem stuffBody_state (s : State) :
    (stuffBody s).1 = { s with af := { s.af with stuff := (stuffBody s).1.af.stuff }, port := (stuffBody s).1.port } := rfl

theorem stuffBody_port (s : State) : s.port.Reaches (stuffBody s).1.port := FrameBuf.stuffing_tidy _ _ _

/-- PESPARSE's body changes the PES set and the port alone. -/
theorem pesBody_state (p : Nat) (s : State) :
    (pesBody p s).1 = { s with pes := (pesBody p s).1.pes, port := (pesBody p s).1.port } := rfl

theorem pesBody_port (p : Nat) (s : State) : s.port.Reaches (pesBody p s).1.port := FrameBuf.pesParse_tidy _ _ _

/-! ### The assembler -/

/-- `t` differs from `s` in what ABSORB may write, TARGET_PID and RESULT not among it. -/
structure AbsorbFrame (s t : State) : Prop where
  state : t = { s with
    asm := t.asm, pes := t.pes, pesBuf := { s.pesBuf with cells := t.pesBuf.cells }, ovf := t.ovf, port := t.port }
  targetPid : t.asm.targetPid = s.asm.targetPid
  port : s.port.Reaches t.port

theorem AbsorbFrame.refl (s : State) : AbsorbFrame s s := ⟨rfl, rfl, .refl _⟩

theorem AbsorbFrame.trans {s t u : State} (h : AbsorbFrame s t) (k : AbsorbFrame t u) : AbsorbFrame s u :=
  ⟨by rw [k.state, h.state], k.targetPid.trans h.targetPid, h.port.trans k.port⟩

theorem setActive_absorbFrame (s : State) (v : Bool) : AbsorbFrame s (s.setActive v) := ⟨rfl, rfl, .refl _⟩

theorem setOvf_absorbFrame (s : State) : AbsorbFrame s s.setOvf := ⟨rfl, rfl, .refl _⟩

theorem append_absorbFrame (s : State) (src n : Nat) : AbsorbFrame s (s.append src n) :=
  ⟨rfl, rfl, appendLoop_tidy _ _ _ _ _ _⟩

theorem beginUnit_absorbFrame (s : State) (stuff : Nat) : AbsorbFrame s (beginUnit s stuff) := ⟨rfl, rfl, .refl _⟩

theorem pesBody_absorbFrame (p : Nat) (s : State) : AbsorbFrame s (pesBody p s).1 := ⟨rfl, rfl, pesBody_port p s⟩

theorem recordCc_absorbFrame (s : State) : AbsorbFrame s (recordCc s) := by
  unfold recordCc; split
  · exact ⟨rfl, rfl, .refl _⟩
  · exact .refl s

theorem countStuffing_absorbFrame (s : State) : AbsorbFrame s (countStuffing s).1 := by
  refine ⟨rfl, rfl, ?_⟩
  simp only [countStuffing]; split
  · exact FrameBuf.stuffing_tidy _ _ _
  · exact .refl _

theorem finishUnit_absorbFrame (s : State) (more : ResultCode) (n : Nat) : AbsorbFrame s (finishUnit s more n).1 := by
  unfold finishUnit; split
  · exact setActive_absorbFrame s false
  · exact .refl s

/-- Step 6 ends in one of two ways. -/
theorem absorbStart_cases (off n stuff : Nat) (s : State) :
    absorbStart off n stuff s =
      if (pesBody off (beginUnit s stuff)).2.code = .ok then
        finishUnit (((pesBody off (beginUnit s stuff)).1.append off n).setActive true) .started n
      else ((pesBody off (beginUnit s stuff)).1, { code := .invalidStartCode, value := 0 }) := rfl

theorem absorbStart_absorbFrame (off n stuff : Nat) (s : State) : AbsorbFrame s (absorbStart off n stuff s).1 := by
  have h := (beginUnit_absorbFrame s stuff).trans (pesBody_absorbFrame off _)
  rw [absorbStart_cases]; split
  · exact ((h.trans (append_absorbFrame _ _ _)).trans (setActive_absorbFrame _ _)).trans (finishUnit_absorbFrame _ _ _)
  · exact h

theorem absorbContinue_absorbFrame (off n : Nat) (s : State) : AbsorbFrame s (absorbContinue off n s).1 := by
  unfold absorbContinue; split
  · exact (append_absorbFrame _ _ _).trans (finishUnit_absorbFrame _ _ _)
  · exact (setActive_absorbFrame _ _).trans (setOvf_absorbFrame _)

theorem absorbPayload_absorbFrame (s : State) (stuff : Nat) : AbsorbFrame s (absorbPayload s stuff).1 := by
  simp only [absorbPayload]; split
  · exact .refl s
  · split
    · exact absorbStart_absorbFrame _ _ _ _
    · split
      · exact absorbContinue_absorbFrame _ _ _
      · exact .refl s

/-- ABSORB's body writes what 43_pes_assembler.md R261 lists, whatever path it takes. -/
theorem absorbBody_absorbFrame (s : State) : AbsorbFrame s (absorbBody s).1 := by
  unfold absorbBody; split
  · exact .refl s
  · split
    · exact setActive_absorbFrame s false
    · exact ((recordCc_absorbFrame s).trans (countStuffing_absorbFrame _)).trans (absorbPayload_absorbFrame _ _)

/-! ### FRAME and CLEAR -/

/-- FRAME ends after TSPARSE, after AFPARSE, or with ABSORB. -/
theorem frameBody_cases (s : State) :
    ((tsBody s).2.code ≠ .ok ∧ frameBody s = tsBody s) ∨
      ((tsBody s).2.code = .ok ∧ (afBody (tsBody s).1).2.code ≠ .ok ∧ frameBody s = afBody (tsBody s).1) ∨
      ((tsBody s).2.code = .ok ∧ (afBody (tsBody s).1).2.code = .ok ∧
        frameBody s = absorbBody (stuffBody (afBody (tsBody s).1).1).1) := by
  by_cases h : (tsBody s).2.code = .ok
  · by_cases k : (afBody (tsBody s).1).2.code = .ok
    · exact .inr (.inr ⟨h, k, by simp [frameBody, h, k, frameTail]⟩)
    · exact .inr (.inl ⟨h, k, by simp [frameBody, h, k]⟩)
  · exact .inl ⟨h, by simp [frameBody, h]⟩

@[simp] theorem State.onBit_true (s : State) (op : State → State) : s.onBit true op = op s := rfl

@[simp] theorem State.onBit_false (s : State) (op : State → State) : s.onBit false op = s := rfl

/-- PESPARSE runs its body at an offset inside the frame, and is an illegal command otherwise. -/
theorem execPesparse_cases (off : Byte) (s : State) :
    (off.toNat < 188 ∧ execPesparse off s = complete (pesBody off.toNat s)) ∨
      (188 ≤ off.toNat ∧ execPesparse off s = .next (illegalCommand s)) := by
  by_cases h : off.toNat < 188
  · exact .inl ⟨h, if_pos h⟩
  · exact .inr ⟨Nat.le_of_not_lt h, if_neg h⟩

end Sys2Proof.Machine
end

