-- ==== Sys2Proof/Laws/Decode.lean ====
section
/-! SUPPORT. The fields of a command word as numbers, and the fields of the words the encoder writes. -/

namespace Sys2Proof

/-- A concatenation as a number. -/
theorem toNat_append_eq {n m : Nat} (a : BitVec n) (b : BitVec m) : (a ++ b).toNat = a.toNat * 2 ^ m + b.toNat := by
  rw [BitVec.toNat_append, ← Nat.shiftLeft_add_eq_or_of_lt b.isLt, Nat.shiftLeft_eq]

theorem fieldOp_toNat (w : Word) : (fieldOp w).toNat = w.toNat % 16 := by
  simp [fieldOp, BitVec.extractLsb'_toNat]

theorem fieldRsv0_toNat (w : Word) : (fieldRsv0 w).toNat = w.toNat / 16 % 16 := by
  simp [fieldRsv0, BitVec.extractLsb'_toNat, Nat.shiftRight_eq_div_pow]

theorem fieldImm8_toNat (w : Word) : (fieldImm8 w).toNat = w.toNat / 256 % 256 := by
  simp [fieldImm8, BitVec.extractLsb'_toNat, Nat.shiftRight_eq_div_pow]

theorem fieldPid13_toNat (w : Word) : (fieldPid13 w).toNat = w.toNat / 65536 % 8192 := by
  simp [fieldPid13, BitVec.extractLsb'_toNat, Nat.shiftRight_eq_div_pow]

theorem fieldRsv1_toNat (w : Word) : (fieldRsv1 w).toNat = w.toNat / 536870912 := by
  have := w.isLt
  simp [fieldRsv1, BitVec.extractLsb'_toNat, Nat.shiftRight_eq_div_pow]
  omega

theorem fieldRsv0_eq_zero (w : Word) : fieldRsv0 w = 0 ↔ w.toNat / 16 % 16 = 0 := by
  rw [← fieldRsv0_toNat, ← BitVec.toNat_inj]; rfl

theorem fieldRsv1_eq_zero (w : Word) : fieldRsv1 w = 0 ↔ w.toNat / 536870912 = 0 := by
  rw [← fieldRsv1_toNat, ← BitVec.toNat_inj]; rfl

/-- The word a command's fields give (30_encoding.md R90). -/
theorem commandWord_toNat (op : BitVec 4) (imm8 : Byte) (pid13 : BitVec 13) :
    (commandWord op imm8 pid13).toNat = op.toNat + imm8.toNat * 256 + pid13.toNat * 65536 := by
  have h1 := op.isLt
  have h2 := imm8.isLt
  have h3 := pid13.isLt
  simp only [commandWord, BitVec.toNat_append, BitVec.ofNat_eq_ofNat, BitVec.toNat_ofNat]
  rw [← Nat.shiftLeft_add_eq_or_of_lt h1, ← Nat.shiftLeft_add_eq_or_of_lt (by omega : 0 % 2 ^ 4 < 2 ^ 4),
    ← Nat.shiftLeft_add_eq_or_of_lt h2, ← Nat.shiftLeft_add_eq_or_of_lt h3]
  simp only [Nat.shiftLeft_eq]
  omega

variable (op : BitVec 4) (imm8 : Byte) (pid13 : BitVec 13)

@[simp] theorem fieldOp_commandWord : fieldOp (commandWord op imm8 pid13) = op := by
  apply BitVec.eq_of_toNat_eq; rw [fieldOp_toNat, commandWord_toNat]; omega

@[simp] theorem fieldImm8_commandWord : fieldImm8 (commandWord op imm8 pid13) = imm8 := by
  apply BitVec.eq_of_toNat_eq; rw [fieldImm8_toNat, commandWord_toNat]; omega

@[simp] theorem fieldPid13_commandWord : fieldPid13 (commandWord op imm8 pid13) = pid13 := by
  apply BitVec.eq_of_toNat_eq; rw [fieldPid13_toNat, commandWord_toNat]; omega

@[simp] theorem fieldRsv0_commandWord : fieldRsv0 (commandWord op imm8 pid13) = 0#4 := by
  apply BitVec.eq_of_toNat_eq; rw [fieldRsv0_toNat, commandWord_toNat]; simp; omega

@[simp] theorem fieldRsv1_commandWord : fieldRsv1 (commandWord op imm8 pid13) = 0#3 := by
  apply BitVec.eq_of_toNat_eq; rw [fieldRsv1_toNat, commandWord_toNat]; simp; omega

end Sys2Proof
end

