-- ==== Sys2Proof/Laws/Host.lean ====
section
/-! SUPPORT. The host's accesses: what stands where in the address map, the bytes of a bus word, and the step that serves a
defined access. -/

namespace Sys2Proof.Machine

/-! ### Bus words -/

theorem wordByte_toNat (w : Word) (j : Nat) : (wordByte w j).toNat = w.toNat / 256 ^ j % 256 := by
  simp [wordByte, BitVec.extractLsb'_toNat, Nat.shiftRight_eq_div_pow, Nat.pow_mul]

theorem packWord_toNat (b0 b1 b2 b3 : Byte) :
    (packWord b0 b1 b2 b3).toNat = b0.toNat + b1.toNat * 256 + b2.toNat * 65536 + b3.toNat * 16777216 := by
  have h0 := b0.isLt
  have h1 := b1.isLt
  have h2 := b2.isLt
  simp only [packWord, BitVec.toNat_append]
  rw [← Nat.shiftLeft_add_eq_or_of_lt h2, ← Nat.shiftLeft_add_eq_or_of_lt h1, ← Nat.shiftLeft_add_eq_or_of_lt h0]
  simp only [Nat.shiftLeft_eq]
  omega

/-- A word is the packing of its bytes (20_memory.md R66). -/
theorem packWord_wordByte (w : Word) :
    packWord (wordByte w 0) (wordByte w 1) (wordByte w 2) (wordByte w 3) = w := by
  apply BitVec.eq_of_toNat_eq
  have := w.isLt
  simp only [packWord_toNat, wordByte_toNat]
  omega

/-! ### The address map (20_memory.md R65) -/

theorem placeAt_register (cap : Nat) (r : Reg) : placeAt cap r.offset = .register r := by
  cases r <;> simp [placeAt, frameBase, frameWords, pesBufBase, Reg.offset, Reg.all]

theorem placeAt_frameWord (cap : Nat) {k : Nat} (hk : k < 47) : placeAt cap (0x400 + 4 * k) = .frameWord k := by
  unfold placeAt frameBase frameWords
  rw [if_pos (by omega)]
  congr 1
  omega

theorem placeAt_pesBufWord {cap k : Nat} (hk : 4 * k < cap) : placeAt cap (0x100000 + 4 * k) = .pesBufWord k := by
  unfold placeAt frameBase frameWords pesBufBase
  rw [if_neg (by omega), if_pos (by omega)]
  congr 1
  omega

/-- Outside the two windows a place is a register of the map or unmapped. -/
theorem placeAt_outside {cap a : Nat} (hf : ¬(0x400 ≤ a ∧ a < 0x400 + 4 * 47)) (hp : ¬(0x100000 ≤ a ∧ a - 0x100000 < cap)) :
    (∃ r, placeAt cap a = .register r ∧ r.offset = a) ∨
      (placeAt cap a = .unmapped ∧ ∀ r : Reg, r.offset ≠ a) := by
  unfold placeAt frameBase frameWords pesBufBase
  rw [if_neg hf, if_neg hp]
  cases h : Reg.all.find? (fun r => r.offset == a) with
  | some r => exact .inl ⟨r, rfl, by simpa using List.find?_some h⟩
  | none =>
    refine .inr ⟨rfl, fun r hr => ?_⟩
    have := List.find?_eq_none.1 h r (by cases r <;> decide)
    simp [hr] at this

/-! ### The step that serves an access -/

theorem accessDefined_word {a : Addr} (h : a.toNat % 4 = 0) : accessDefined a .word = true := by simp [accessDefined, h]

/-- A defined read returns the word and changes nothing else (20_memory.md R75). -/
theorem step_read {s : State} {a : Addr} {rest : List HostEvent} (hr : s.inReset = false) (ha : a.toNat % 4 = 0)
    (hq : s.hostQueue = .read a .word :: rest) :
    step s = .next { s with hostQueue := rest, busData := readWord { s with hostQueue := rest } a.toNat } := by
  simp [step, hq, serve, busAccess, hr, accessDefined_word ha]

/-- A defined write is a word write of the map. -/
theorem step_write {s : State} {a : Addr} {w : Word} {rest : List HostEvent} (hr : s.inReset = false)
    (ha : a.toNat % 4 = 0) (hq : s.hostQueue = .write a .word w :: rest) :
    step s = writeWord { s with hostQueue := rest } a.toNat w := by
  simp [step, hq, serve, busAccess, hr, accessDefined_word ha]

/-- The queue and the read data are not inputs of a read. -/
theorem readWord_queue (s : State) (q : List HostEvent) (v : Word) (a : Nat) :
    readWord { s with hostQueue := q, busData := v } a = readWord s a := by
  unfold readWord
  split <;> rename_i h <;> simp only at h <;> simp only [h] <;> try rfl

/-! ### The steps there are -/

/-- A CMD write runs its word (20_memory.md R62). -/
theorem step_command {s : State} {w : Word} {rest : List HostEvent} (hr : s.inReset = false)
    (hq : s.hostQueue = hostCommand w :: rest) : step s = runCommand w { s with hostQueue := rest } := by
  rw [step_write hr (by decide) hq, writeWord]
  rw [show placeAt _ (0x000 : Addr).toNat = .register .cmd from placeAt_register _ .cmd]

/-- Everything a step with a next state can be. -/
theorem step_cases {s t : State} (h : step s = .next t) :
    (s.hostQueue = [] ∧ t = s) ∨
      (∃ a rest v, s.inReset = false ∧ a.toNat % 4 = 0 ∧ s.hostQueue = .read a .word :: rest ∧
        t = { s with hostQueue := rest, busData := v }) ∨
      (∃ w rest, s.inReset = false ∧ s.hostQueue = hostCommand w :: rest ∧
        runCommand w { s with hostQueue := rest } = .next t) ∨
      (∃ (a : Addr) (w : Word) (rest : List HostEvent) (k : Nat), s.inReset = false ∧ k < 47 ∧
        a.toNat = 0x400 + 4 * k ∧ s.hostQueue = .write a .word w :: rest ∧
        t = writeFrameWord { s with hostQueue := rest } k w) ∨
      (∃ e rest, s.hostQueue = e :: rest ∧ t = { s with hostQueue := rest }) ∨
      (∃ rest, s.hostQueue = .assertReset :: rest ∧ t = { s with hostQueue := rest, inReset := true }) ∨
      (∃ rest, s.inReset = true ∧ s.hostQueue = .releaseReset :: rest ∧
        t = State.afterReset { s with hostQueue := rest }) := by
  unfold step at h
  split at h
  · rename_i hq; cases h; exact .inl ⟨hq, rfl⟩
  · rename_i e rest hq
    cases e with
    | read a size =>
      simp only [serve, busAccess] at h
      split at h
      · cases h
      · rename_i hr
        split at h
        · rename_i hd
          simp only [accessDefined, Bool.and_eq_true, beq_iff_eq] at hd
          obtain ⟨rfl, hd⟩ := hd
          cases h
          exact .inr (.inl ⟨a, rest, _, by simpa using hr, hd, hq, rfl⟩)
        · cases h
    | write a size w =>
      simp only [serve, busAccess] at h
      split at h
      · cases h
      · rename_i hr
        have hr : s.inReset = false := by simpa using hr
        split at h
        · rename_i hd
          simp only [accessDefined, Bool.and_eq_true, beq_iff_eq] at hd
          obtain ⟨rfl, hd⟩ := hd
          unfold writeWord at h
          split at h
          · rename_i hp
            have ha : a = 0x000 := by
              refine BitVec.eq_of_toNat_eq ?_
              by_cases hf : 0x400 ≤ a.toNat ∧ a.toNat < 0x400 + 4 * 47
              · rw [show a.toNat = 0x400 + 4 * ((a.toNat - 0x400) / 4) by omega, placeAt_frameWord _ (by omega)] at hp
                cases hp
              · by_cases hb : 0x100000 ≤ a.toNat ∧ a.toNat - 0x100000 < s.params.pesBufCap
                · rw [show a.toNat = 0x100000 + 4 * ((a.toNat - 0x100000) / 4) by omega, placeAt_pesBufWord (by simpa using (by omega))] at hp
                  cases hp
                · rcases placeAt_outside hf hb with ⟨r, h1, h2⟩ | ⟨h1, -⟩
                  · rw [show placeAt _ a.toNat = .register r from h1] at hp; cases hp; exact h2.symm
                  · rw [show placeAt _ a.toNat = .unmapped from h1] at hp; cases hp
            subst ha
            exact .inr (.inr (.inl ⟨w, rest, hr, hq, h⟩))
          · rename_i k hp
            have hf : 0x400 ≤ a.toNat ∧ a.toNat < 0x400 + 4 * 47 := by
              by_contra hf
              unfold placeAt frameBase frameWords pesBufBase at hp
              rw [if_neg hf] at hp
              split at hp
              · cases hp
              · split at hp <;> cases hp
            have ha : a.toNat = 0x400 + 4 * ((a.toNat - 0x400) / 4) := by omega
            rw [ha, placeAt_frameWord _ (by omega)] at hp
            cases hp
            cases h
            exact .inr (.inr (.inr (.inl ⟨a, w, rest, _, hr, by omega, ha, hq, rfl⟩)))
          all_goals cases h; exact .inr (.inr (.inr (.inr (.inl ⟨_, rest, hq, rfl⟩))))
        · cases h
    | assertReset => cases h; exact .inr (.inr (.inr (.inr (.inr (.inl ⟨rest, hq, rfl⟩)))))
    | releaseReset =>
      simp only [serve] at h
      split at h <;> cases h
      · rename_i hr; exact .inr (.inr (.inr (.inr (.inr (.inr ⟨rest, hr, hq, rfl⟩)))))
      · exact .inr (.inr (.inr (.inr (.inl ⟨_, rest, hq, rfl⟩))))

/-! ### A FRAME write keeps the frame buffer's form -/

theorem writeFrameWord_wf (s : State) (k : Nat) (w : Word) (h : Memory.wf s.frame.cells = true) :
    Memory.wf (writeFrameWord s k w).frame.cells = true :=
  Memory.wf_write _ _ (Memory.wf_write _ _ (Memory.wf_write _ _ (Memory.wf_write _ _ h)))

theorem writeFrameWord_below (s : State) {k : Nat} (w : Word) (hk : k < 47)
    (h : Memory.below 188 s.frame.cells = true) : Memory.below 188 (writeFrameWord s k w).frame.cells = true :=
  Memory.below_write _
    (Memory.below_write _ (Memory.below_write _ (Memory.below_write _ h (by omega)) (by omega)) (by omega)) (by omega)

end Sys2Proof.Machine
end

