-- ==== Sys2Proof/Laws/PerInstr.lean ====
section
/-! SUPPORT. Families of statements made per command: `EncodedRow`, that a command's word lies in its row of
spec/opcode_table.json. -/

namespace Sys2Proof.Laws.EncodedRow

/-- The row's match value: the OP of a command (30_encoding.md R91, R120). -/
def opcode : Instr → Nat
  | .nop => 0
  | .init _ => 1
  | .tsparse => 2
  | .afparse => 3
  | .afstuff => 4
  | .pesparse _ => 5
  | .absorb => 6
  | .frame => 7
  | .clear _ => 8

/-- Under the row's mask 0xE00000FF the word is the row's match value: OP is the opcode, RSV0 and RSV1 are 0. -/
def Statement (i : Instr) : Prop := (encode i).toNat % 256 = opcode i ∧ (encode i).toNat / 536870912 = 0

theorem of_fields (op : BitVec 4) (imm8 : Byte) (pid : BitVec 13) :
    (commandWord op imm8 pid).toNat % 256 = op.toNat ∧ (commandWord op imm8 pid).toNat / 536870912 = 0 := by
  have h1 := op.isLt
  have h2 := imm8.isLt
  have h3 := pid.isLt
  rw [commandWord_toNat]
  omega

theorem nop : Statement .nop := of_fields 0 0 0
theorem init (pid : BitVec 13) : Statement (.init pid) := of_fields 1 0 pid
theorem tsparse : Statement .tsparse := of_fields 2 0 0
theorem afparse : Statement .afparse := of_fields 3 0 0
theorem afstuff : Statement .afstuff := of_fields 4 0 0
theorem pesparse (off : Byte) : Statement (.pesparse off) := of_fields 5 off 0
theorem absorb : Statement .absorb := of_fields 6 0 0
theorem frame : Statement .frame := of_fields 7 0 0
theorem clear (mask : Byte) : Statement (.clear mask) := of_fields 8 mask 0

end Sys2Proof.Laws.EncodedRow
end

