-- ==== Sys2Proof/Laws/State.lean ====
section
/-! SUPPORT. One lemma per field per named update of State, each true by rfl, so that no later proof unfolds an update. -/

namespace Sys2Proof.Machine

variable (s : State)

@[simp] theorem State.clearTs_ts : s.clearTs.ts = TsRegs.zero := rfl
@[simp] theorem State.clearTs_af : s.clearTs.af = s.af := rfl
@[simp] theorem State.clearTs_pes : s.clearTs.pes = s.pes := rfl
@[simp] theorem State.clearTs_asm : s.clearTs.asm = s.asm := rfl
@[simp] theorem State.clearTs_result : s.clearTs.result = s.result := rfl
@[simp] theorem State.clearTs_ovf : s.clearTs.ovf = s.ovf := rfl
@[simp] theorem State.clearTs_port : s.clearTs.port = s.port := rfl
@[simp] theorem State.clearTs_frame : s.clearTs.frame = s.frame := rfl
@[simp] theorem State.clearTs_pesBuf : s.clearTs.pesBuf = s.pesBuf := rfl
@[simp] theorem State.clearTs_params : s.clearTs.params = s.params := rfl
@[simp] theorem State.clearTs_hostQueue : s.clearTs.hostQueue = s.hostQueue := rfl
@[simp] theorem State.clearTs_busData : s.clearTs.busData = s.busData := rfl
@[simp] theorem State.clearTs_inReset : s.clearTs.inReset = s.inReset := rfl

@[simp] theorem State.clearAf_ts : s.clearAf.ts = s.ts := rfl
@[simp] theorem State.clearAf_af : s.clearAf.af = AfRegs.zero := rfl
@[simp] theorem State.clearAf_pes : s.clearAf.pes = s.pes := rfl
@[simp] theorem State.clearAf_asm : s.clearAf.asm = s.asm := rfl
@[simp] theorem State.clearAf_result : s.clearAf.result = s.result := rfl
@[simp] theorem State.clearAf_ovf : s.clearAf.ovf = s.ovf := rfl
@[simp] theorem State.clearAf_port : s.clearAf.port = s.port := rfl
@[simp] theorem State.clearAf_frame : s.clearAf.frame = s.frame := rfl
@[simp] theorem State.clearAf_pesBuf : s.clearAf.pesBuf = s.pesBuf := rfl
@[simp] theorem State.clearAf_params : s.clearAf.params = s.params := rfl
@[simp] theorem State.clearAf_hostQueue : s.clearAf.hostQueue = s.hostQueue := rfl
@[simp] theorem State.clearAf_busData : s.clearAf.busData = s.busData := rfl
@[simp] theorem State.clearAf_inReset : s.clearAf.inReset = s.inReset := rfl

@[simp] theorem State.clearPes_ts : s.clearPes.ts = s.ts := rfl
@[simp] theorem State.clearPes_af : s.clearPes.af = s.af := rfl
@[simp] theorem State.clearPes_pes : s.clearPes.pes = PesRegs.zero := rfl
@[simp] theorem State.clearPes_asm : s.clearPes.asm = s.asm := rfl
@[simp] theorem State.clearPes_result : s.clearPes.result = s.result := rfl
@[simp] theorem State.clearPes_ovf : s.clearPes.ovf = s.ovf := rfl
@[simp] theorem State.clearPes_port : s.clearPes.port = s.port := rfl
@[simp] theorem State.clearPes_frame : s.clearPes.frame = s.frame := rfl
@[simp] theorem State.clearPes_pesBuf : s.clearPes.pesBuf = s.pesBuf := rfl
@[simp] theorem State.clearPes_params : s.clearPes.params = s.params := rfl
@[simp] theorem State.clearPes_hostQueue : s.clearPes.hostQueue = s.hostQueue := rfl
@[simp] theorem State.clearPes_busData : s.clearPes.busData = s.busData := rfl
@[simp] theorem State.clearPes_inReset : s.clearPes.inReset = s.inReset := rfl

@[simp] theorem State.finish_ts (r : Result) : (s.finish r).ts = s.ts := rfl
@[simp] theorem State.finish_af (r : Result) : (s.finish r).af = s.af := rfl
@[simp] theorem State.finish_pes (r : Result) : (s.finish r).pes = s.pes := rfl
@[simp] theorem State.finish_asm (r : Result) : (s.finish r).asm = s.asm := rfl
@[simp] theorem State.finish_result (r : Result) : (s.finish r).result = r := rfl
@[simp] theorem State.finish_ovf (r : Result) : (s.finish r).ovf = s.ovf := rfl
@[simp] theorem State.finish_port (r : Result) : (s.finish r).port = s.port := rfl
@[simp] theorem State.finish_frame (r : Result) : (s.finish r).frame = s.frame := rfl
@[simp] theorem State.finish_pesBuf (r : Result) : (s.finish r).pesBuf = s.pesBuf := rfl
@[simp] theorem State.finish_params (r : Result) : (s.finish r).params = s.params := rfl
@[simp] theorem State.finish_hostQueue (r : Result) : (s.finish r).hostQueue = s.hostQueue := rfl
@[simp] theorem State.finish_busData (r : Result) : (s.finish r).busData = s.busData := rfl
@[simp] theorem State.finish_inReset (r : Result) : (s.finish r).inReset = s.inReset := rfl

@[simp] theorem State.setActive_ts (v : Bool) : (s.setActive v).ts = s.ts := rfl
@[simp] theorem State.setActive_af (v : Bool) : (s.setActive v).af = s.af := rfl
@[simp] theorem State.setActive_pes (v : Bool) : (s.setActive v).pes = s.pes := rfl
@[simp] theorem State.setActive_asm (v : Bool) : (s.setActive v).asm = { s.asm with active := v } := rfl
@[simp] theorem State.setActive_result (v : Bool) : (s.setActive v).result = s.result := rfl
@[simp] theorem State.setActive_ovf (v : Bool) : (s.setActive v).ovf = s.ovf := rfl
@[simp] theorem State.setActive_port (v : Bool) : (s.setActive v).port = s.port := rfl
@[simp] theorem State.setActive_frame (v : Bool) : (s.setActive v).frame = s.frame := rfl
@[simp] theorem State.setActive_pesBuf (v : Bool) : (s.setActive v).pesBuf = s.pesBuf := rfl
@[simp] theorem State.setActive_params (v : Bool) : (s.setActive v).params = s.params := rfl
@[simp] theorem State.setActive_hostQueue (v : Bool) : (s.setActive v).hostQueue = s.hostQueue := rfl
@[simp] theorem State.setActive_busData (v : Bool) : (s.setActive v).busData = s.busData := rfl
@[simp] theorem State.setActive_inReset (v : Bool) : (s.setActive v).inReset = s.inReset := rfl

@[simp] theorem State.setOvf_ts : s.setOvf.ts = s.ts := rfl
@[simp] theorem State.setOvf_af : s.setOvf.af = s.af := rfl
@[simp] theorem State.setOvf_pes : s.setOvf.pes = s.pes := rfl
@[simp] theorem State.setOvf_asm : s.setOvf.asm = s.asm := rfl
@[simp] theorem State.setOvf_result : s.setOvf.result = s.result := rfl
@[simp] theorem State.setOvf_ovf : s.setOvf.ovf = true := rfl
@[simp] theorem State.setOvf_port : s.setOvf.port = s.port := rfl
@[simp] theorem State.setOvf_frame : s.setOvf.frame = s.frame := rfl
@[simp] theorem State.setOvf_pesBuf : s.setOvf.pesBuf = s.pesBuf := rfl
@[simp] theorem State.setOvf_params : s.setOvf.params = s.params := rfl
@[simp] theorem State.setOvf_hostQueue : s.setOvf.hostQueue = s.hostQueue := rfl
@[simp] theorem State.setOvf_busData : s.setOvf.busData = s.busData := rfl
@[simp] theorem State.setOvf_inReset : s.setOvf.inReset = s.inReset := rfl

@[simp] theorem State.clearSticky_ts : s.clearSticky.ts = s.ts := rfl
@[simp] theorem State.clearSticky_af : s.clearSticky.af = s.af := rfl
@[simp] theorem State.clearSticky_pes : s.clearSticky.pes = s.pes := rfl
@[simp] theorem State.clearSticky_asm : s.clearSticky.asm = s.asm := rfl
@[simp] theorem State.clearSticky_result : s.clearSticky.result = s.result := rfl
@[simp] theorem State.clearSticky_ovf : s.clearSticky.ovf = false := rfl
@[simp] theorem State.clearSticky_port : s.clearSticky.port = { s.port with oob := false } := rfl
@[simp] theorem State.clearSticky_frame : s.clearSticky.frame = s.frame := rfl
@[simp] theorem State.clearSticky_pesBuf : s.clearSticky.pesBuf = s.pesBuf := rfl
@[simp] theorem State.clearSticky_params : s.clearSticky.params = s.params := rfl
@[simp] theorem State.clearSticky_hostQueue : s.clearSticky.hostQueue = s.hostQueue := rfl
@[simp] theorem State.clearSticky_busData : s.clearSticky.busData = s.busData := rfl
@[simp] theorem State.clearSticky_inReset : s.clearSticky.inReset = s.inReset := rfl

@[simp] theorem beginUnit_ts (n : Nat) : (beginUnit s n).ts = s.ts := rfl
@[simp] theorem beginUnit_af (n : Nat) : (beginUnit s n).af = s.af := rfl
@[simp] theorem beginUnit_pes (n : Nat) : (beginUnit s n).pes = s.pes := rfl
@[simp] theorem beginUnit_asm (n : Nat) : (beginUnit s n).asm = { s.asm with bufLen := 0, stuffTotal := BitVec.ofNat 32 n, active := false } := rfl
@[simp] theorem beginUnit_result (n : Nat) : (beginUnit s n).result = s.result := rfl
@[simp] theorem beginUnit_ovf (n : Nat) : (beginUnit s n).ovf = s.ovf := rfl
@[simp] theorem beginUnit_port (n : Nat) : (beginUnit s n).port = s.port := rfl
@[simp] theorem beginUnit_frame (n : Nat) : (beginUnit s n).frame = s.frame := rfl
@[simp] theorem beginUnit_pesBuf (n : Nat) : (beginUnit s n).pesBuf = s.pesBuf := rfl
@[simp] theorem beginUnit_params (n : Nat) : (beginUnit s n).params = s.params := rfl
@[simp] theorem beginUnit_hostQueue (n : Nat) : (beginUnit s n).hostQueue = s.hostQueue := rfl
@[simp] theorem beginUnit_busData (n : Nat) : (beginUnit s n).busData = s.busData := rfl
@[simp] theorem beginUnit_inReset (n : Nat) : (beginUnit s n).inReset = s.inReset := rfl

@[simp] theorem State.append_ts (src n : Nat) : (s.append src n).ts = s.ts := rfl
@[simp] theorem State.append_af (src n : Nat) : (s.append src n).af = s.af := rfl
@[simp] theorem State.append_pes (src n : Nat) : (s.append src n).pes = s.pes := rfl
@[simp] theorem State.append_result (src n : Nat) : (s.append src n).result = s.result := rfl
@[simp] theorem State.append_ovf (src n : Nat) : (s.append src n).ovf = s.ovf := rfl
@[simp] theorem State.append_frame (src n : Nat) : (s.append src n).frame = s.frame := rfl
@[simp] theorem State.append_params (src n : Nat) : (s.append src n).params = s.params := rfl
@[simp] theorem State.append_hostQueue (src n : Nat) : (s.append src n).hostQueue = s.hostQueue := rfl
@[simp] theorem State.append_busData (src n : Nat) : (s.append src n).busData = s.busData := rfl
@[simp] theorem State.append_inReset (src n : Nat) : (s.append src n).inReset = s.inReset := rfl
@[simp] theorem State.append_asm (src n : Nat) :
    (s.append src n).asm = { s.asm with bufLen := s.asm.bufLen + BitVec.ofNat 32 n } := rfl

@[simp] theorem illegalCommand_ts : (illegalCommand s).ts = s.ts := rfl
@[simp] theorem illegalCommand_af : (illegalCommand s).af = s.af := rfl
@[simp] theorem illegalCommand_pes : (illegalCommand s).pes = s.pes := rfl
@[simp] theorem illegalCommand_asm : (illegalCommand s).asm = s.asm := rfl
@[simp] theorem illegalCommand_result : (illegalCommand s).result = { code := .illegalCommand, value := 0 } := rfl
@[simp] theorem illegalCommand_ovf : (illegalCommand s).ovf = s.ovf := rfl
@[simp] theorem illegalCommand_port : (illegalCommand s).port = s.port := rfl
@[simp] theorem illegalCommand_frame : (illegalCommand s).frame = s.frame := rfl
@[simp] theorem illegalCommand_pesBuf : (illegalCommand s).pesBuf = s.pesBuf := rfl
@[simp] theorem illegalCommand_params : (illegalCommand s).params = s.params := rfl
@[simp] theorem illegalCommand_hostQueue : (illegalCommand s).hostQueue = s.hostQueue := rfl
@[simp] theorem illegalCommand_busData : (illegalCommand s).busData = s.busData := rfl
@[simp] theorem illegalCommand_inReset : (illegalCommand s).inReset = s.inReset := rfl

/-- Completing a body writes RESULT and nothing else (10_state.md R47). -/
theorem complete_eq (x : State × Result) : complete x = .next { x.1 with result := x.2 } := rfl

end Sys2Proof.Machine
end

