-- ==== Sys2Proof/Machine/Assembler.lean ====
section
/-! DEFINITION. The text form of host programs (30_encoding.md R131 to R134; 92_eei_decisions.md D52; what
they leave open, log 15): a line of text as the host events it stands for. It has no part in the step: the block sees the
bus accesses only. -/

namespace Sys2Proof.Machine.Text

/-! ### Words and numbers (30_encoding.md R131) -/

/-- A character that separates words. -/
def isBlank (c : Char) : Bool := c == ' ' || c == '\t'

/-- The line without its comment: `;` starts one (30_encoding.md R131). -/
def stripComment (line : List Char) : List Char := line.takeWhile (fun c => c != ';')

/-- Puts a character in front of the first word. -/
def consWord (c : Char) : List (List Char) → List (List Char)
  | [] => [[c]]
  | w :: ws => (c :: w) :: ws

/-- Cuts at every character that `sep` holds of; the pieces may be empty. -/
def cutAt (sep : Char → Bool) : List Char → List (List Char)
  | [] => [[]]
  | c :: cs => if sep c then [] :: cutAt sep cs else consWord c (cutAt sep cs)

/-- The words of a line, its comment left out. -/
def wordsOf (line : List Char) : List (List Char) :=
  (cutAt isBlank (stripComment line)).filter fun w => !w.isEmpty

/-- The value of a digit in bases up to 16. -/
def digit (c : Char) : Option Nat :=
  let n := c.toNat
  if 48 ≤ n ∧ n ≤ 57 then some (n - 48)
  else if 65 ≤ n ∧ n ≤ 70 then some (n - 55)
  else if 97 ≤ n ∧ n ≤ 102 then some (n - 87)
  else none

/-- Digits of a base, most significant first, after `acc`. -/
def digits (base : Nat) (acc : Nat) : List Char → Option Nat
  | [] => some acc
  | c :: cs =>
    match digit c with
    | some d => if d < base then digits base (acc * base + d) cs else none
    | none => none

/-- A number with at least one digit. -/
def numeral (base : Nat) (w : List Char) : Option Nat := if w.isEmpty then none else digits base 0 w

/-- An operand: decimal, or hexadecimal after `0x` (30_encoding.md R131). -/
def number : List Char → Option Nat
  | '0' :: 'x' :: w => numeral 16 w
  | w => numeral 10 w

/-- A byte of LOAD: two hexadecimal digits, as the programs of 95_test_vectors.md section G write it. DEDUCED (log 15). -/
def hexByte (w : List Char) : Option Byte :=
  if w.length = 2 then (numeral 16 w).map (BitVec.ofNat 8) else none

/-- The row of a table whose name the word is. -/
def lookup {α : Type} (table : List (String × α)) (w : List Char) : Option α :=
  (table.find? fun row => row.1.toList == w).map (·.2)

/-! ### Commands and masks (30_encoding.md R131, R132) -/

/-- The mnemonics (30_encoding.md R120). -/
def mnemonics : List (String × Mnemonic) :=
  [("NOP", .NOP), ("INIT", .INIT), ("TSPARSE", .TSPARSE), ("AFPARSE", .AFPARSE), ("AFSTUFF", .AFSTUFF),
    ("PESPARSE", .PESPARSE), ("ABSORB", .ABSORB), ("FRAME", .FRAME), ("CLEAR", .CLEAR)]

/-- The names of CLEAR's mask bits (30_encoding.md R132). -/
def maskNames : List (String × Byte) := [("TS", maskTS), ("AF", maskAF), ("PES", maskPES), ("FLAGS", maskFLAGS)]

/-- Names joined by `|` (30_encoding.md R132). -/
def maskOf (w : List Char) : Option Nat :=
  ((cutAt (fun c => c == '|') w).mapM (lookup maskNames)).map fun ms => (ms.foldl (· ||| ·) 0).toNat

/-- A command's operand: a number, or names for CLEAR. -/
def operandOf (m : Mnemonic) (w : List Char) : Option Nat :=
  match m with
  | .CLEAR => (number w).orElse fun _ => maskOf w
  | .NOP | .INIT | .TSPARSE | .AFPARSE | .AFSTUFF | .PESPARSE | .ABSORB | .FRAME => number w

/-- The words of a command line, as its command word; no word for an assembly error (30_encoding.md R131). -/
def commandOf (m : Mnemonic) : List (List Char) → Option Word
  | [] => assemble m none
  | [w] => (operandOf m w).bind fun n => assemble m (some n)
  | _ :: _ :: _ => none

/-! ### Registers and their fields (20_memory.md R65) -/

/-- The register names. -/
def registerNames : List (String × Reg) :=
  [("CMD", .cmd), ("RESULT", .result), ("STATUS", .status), ("TARGET", .target), ("TS_A", .tsA), ("TS_B", .tsB),
    ("AF_A", .afA), ("AF_B", .afB), ("PCR_BASE_LO", .pcrBaseLo), ("PCR_X", .pcrX), ("PCR_LO", .pcrLo),
    ("PCR_HI", .pcrHi), ("OPCR_BASE_LO", .opcrBaseLo), ("OPCR_X", .opcrX), ("OPCR_LO", .opcrLo), ("OPCR_HI", .opcrHi),
    ("PES_A", .pesA), ("PES_B", .pesB), ("PES_C", .pesC), ("PTS_LO", .ptsLo), ("PTS_HI", .ptsHi), ("DTS_LO", .dtsLo),
    ("DTS_HI", .dtsHi), ("BUF_LEN", .bufLen), ("STUFF_TOTAL", .stuffTotal), ("BUF_CAP", .bufCap)]

/-- The fields of a register by name, each its lowest bit and its width. -/
def fieldNames : Reg → List (String × (Nat × Nat))
  | .cmd => []
  | .result => [("CODE", 0, 8), ("VALUE", 16, 16)]
  | .status => [("ACTIVE", 0, 1), ("OOB", 1, 1), ("OVF", 2, 1), ("LAST_CC", 4, 4)]
  | .target => [("TARGET_PID", 0, 13)]
  | .tsA => [("SYNC", 0, 8), ("TEI", 8, 1), ("PUSI", 9, 1), ("PRIO", 10, 1), ("PID", 16, 13)]
  | .tsB => [("SC", 0, 2), ("AFC", 4, 2), ("CC", 8, 4)]
  | .afA => [("CTRL", 0, 2), ("LEN", 8, 8), ("FLAGS", 16, 8), ("STUFF", 24, 8)]
  | .afB => [("SPLICE", 0, 8), ("PRIV_LEN", 8, 8), ("EXT_LEN", 16, 8)]
  | .pcrBaseLo => [("PCR_BASE", 0, 32)]
  | .pcrX => [("PCR_BASE", 0, 1), ("PCR_EXT", 16, 9)]
  | .pcrLo => [("PCR", 0, 32)]
  | .pcrHi => [("PCR", 0, 10)]
  | .opcrBaseLo => [("OPCR_BASE", 0, 32)]
  | .opcrX => [("OPCR_BASE", 0, 1), ("OPCR_EXT", 16, 9)]
  | .opcrLo => [("OPCR", 0, 32)]
  | .opcrHi => [("OPCR", 0, 10)]
  | .pesA => [("PREFIX", 0, 24), ("STREAM_ID", 24, 8)]
  | .pesB => [("PKT_LEN", 0, 16), ("HDR_LEN", 16, 16)]
  | .pesC => [("FLAGS1", 0, 8), ("FLAGS2", 8, 8), ("HDL", 16, 8), ("HAS_EXT", 24, 1)]
  | .ptsLo => [("PTS", 0, 32)]
  | .ptsHi => [("PTS", 0, 1)]
  | .dtsLo => [("DTS", 0, 32)]
  | .dtsHi => [("DTS", 0, 1)]
  | .bufLen => [("BUF_LEN", 0, 32)]
  | .stuffTotal => [("STUFF_TOTAL", 0, 32)]
  | .bufCap => [("PES_BUF_CAP", 0, 32)]

/-! ### Lines (30_encoding.md R131, R133, R134) -/

/-- What a line of a program stands for. -/
inductive Line where
  /-- Host events, none for a line of comment or blanks. -/
  | events (es : List HostEvent)
  /-- EXPECT: what the bits of a register must read. -/
  | expect (r : Reg) (low width value : Nat)
  /-- HALT: the end of the program. -/
  | halt
  deriving DecidableEq, Repr

/-- The bytes of LOAD and the fill byte: all 188 given, or fewer followed by `fill <b>` (30_encoding.md R133). -/
def frameBytes (ws : List (List Char)) : Option (List Byte × Byte) :=
  let given := ws.takeWhile fun w => w != "fill".toList
  match ws.drop given.length with
  | [] => (given.mapM hexByte).bind fun bs => if bs.length = 188 then some (bs, 0) else none
  | [_, w] => (given.mapM hexByte).bind fun bs => if bs.length < 188 then (hexByte w).map fun b => (bs, b) else none
  | [_] | _ :: _ :: _ :: _ => none

/-- READ's operand: a register, or a word of a window as 95_test_vectors.md program P4 writes it. DEDUCED (log 15). -/
def readOf : List (List Char) → Option HostEvent
  | [r] => (lookup registerNames r).map hostRead
  | [win, kw, n] =>
    if kw = "word".toList then
      (lookup [("FRAME", frameBase), ("PESBUF", pesBufBase)] win).bind fun base =>
        (number n).bind fun k =>
          if base + 4 * k < 2 ^ 24 then some (.read (BitVec.ofNat 24 (base + 4 * k)) .word) else none
    else none
  | _ => none

/-- EXPECT's operands: `<register>.<field> = <v>`. -/
def expectOf : List (List Char) → Option Line
  | [rf, eq, v] =>
    match cutAt (fun c => c == '.') rf with
    | [r, f] =>
      if eq = "=".toList then
        (lookup registerNames r).bind fun reg =>
          (lookup (fieldNames reg) f).bind fun bits => (number v).map fun n => Line.expect reg bits.1 bits.2 n
      else none
    | _ => none
  | _ => none

/-- `CMD <word>`: a CMD write of a raw 32-bit word, as 95_test_vectors.md program P3 uses it. R131 to R134 do not list it.
DEDUCED (log 15). -/
def rawWordOf : List (List Char) → Option HostEvent
  | [w] => (number w).bind fun n => if n < 2 ^ 32 then some (hostCommand (BitVec.ofNat 32 n)) else none
  | _ => none

/-- The operations of the host and the pseudo-instructions. -/
inductive HostOp where
  | LOAD | READ | EXPECT | CMD | PROCESS | CLEARALL | DECODE | HALT
  deriving DecidableEq, Repr

/-- Their names. -/
def hostOps : List (String × HostOp) :=
  [("LOAD", .LOAD), ("READ", .READ), ("EXPECT", .EXPECT), ("CMD", .CMD), ("PROCESS", .PROCESS),
    ("CLEARALL", .CLEARALL), ("DECODE", .DECODE), ("HALT", .HALT)]

/-- A host operation or a pseudo-instruction with its operands (30_encoding.md R133, R134). -/
def hostOpOf : HostOp → List (List Char) → Option Line
  | .LOAD, ws => (frameBytes ws).map fun b => .events (hostLoad b.1 b.2)
  | .READ, ws => (readOf ws).map fun e => .events [e]
  | .EXPECT, ws => expectOf ws
  | .CMD, ws => (rawWordOf ws).map fun e => .events [e]
  | .PROCESS, ws => (frameBytes ws).map fun b => .events (hostProcess b.1 b.2)
  | .CLEARALL, ws => if ws.isEmpty then some (.events hostClearAll) else none
  | .DECODE, ws => if ws.isEmpty then some (.events hostDecode) else none
  | .HALT, ws => if ws.isEmpty then some .halt else none

/-- One line of a program; nothing for an assembly error. The raw-word line `CMD <word>` is read as well. DEDUCED (log 15). -/
def lineOf (line : List Char) : Option Line :=
  match wordsOf line with
  | [] => some (.events [])
  | w :: ws =>
    match lookup mnemonics w with
    | some m => (commandOf m ws).map fun c => .events [hostCommand c]
    | none => (lookup hostOps w).bind fun op => hostOpOf op ws

/-- Whether an EXPECT of a line holds in a state: the register's bits read as stated (30_encoding.md R133). -/
def Line.holds (s : State) : Line → Bool
  | .expect r low width value => (r.read s).toNat / 2 ^ low % 2 ^ width == value
  | .events _ | .halt => true

/-- The lines of a program up to HALT; nothing if one of them is an assembly error. -/
def programOf : List (List Char) → Option (List Line)
  | [] => some []
  | l :: ls =>
    match lineOf l with
    | none => none
    | some .halt => some []
    | some x => (programOf ls).map (x :: ·)

end Sys2Proof.Machine.Text
end

