-- ==== Sys2Proof/Tests/Slice0.lean ====
section
/-! SUPPORT. Tests against the spec's own vectors (95_test_vectors.md, cited by their ids) and worked examples, and, for every
obligation with hypotheses, states and operands that meet them. -/

namespace Sys2Proof.Tests

open Sys2Proof.Machine Sys2Proof.Claims

/-! ### Helpers -/

/-- The reset state with PES_BUF_CAP = 65,724, as the vectors take it. -/
def base : State := { State.reset with params := ⟨0x47, 65724⟩ }

/-- Bytes at consecutive indices. -/
def cellsFrom : Nat → List Byte → List Host.Cell
  | _, [] => []
  | i, b :: bs => (i, b) :: cellsFrom (i + 1) bs

/-- A frame with its first bytes known. -/
def frameOf (bytes : List Byte) : FrameBuf := ⟨cellsFrom 0 bytes, 0⟩

/-- `base` with a frame, after INIT 0x100. -/
def loaded (bytes : List Byte) : State :=
  { base with frame := frameOf bytes, asm := { AsmRegs.zero with targetPid := 0x100 } }

/-- The next state, where there is one. -/
def after (o : Out) : State :=
  match o with
  | .next t => t
  | .fault _ => base
  | .refused _ => base

/-- A TS set with the given fields. -/
def tsOf (pid : BitVec 13) (pusi : Bool) (afc : BitVec 2) (cc : BitVec 4) : TsRegs :=
  { TsRegs.zero with sync := 0x47, pid := pid, pusi := pusi, afc := afc, cc := cc }

/-- An assembler of target 0x100 with a unit in progress. -/
def assembling (lastCc : BitVec 4) (bufLen : BitVec 32) : AsmRegs :=
  { AsmRegs.zero with targetPid := 0x100, active := true, lastCc := lastCc, bufLen := bufLen }

/-- `base` waiting for one event of the host. -/
def waiting (e : HostEvent) : State := { base with hostQueue := [e] }

/-! ### WellFormed: the ill-formed term of its one check is refused -/

theorem test_wellFormed_refuses_offset_188 : (Instr.pesparse 188).wellFormed = false := by decide

theorem test_wellFormed_takes_offset_187 : (Instr.pesparse 187).wellFormed = true := by decide

/-! ### Decode: words written out from 30_encoding.md R90 (RSV1, PID13, IMM8, RSV0, OP) -/

theorem test_decode_nop : decode (0b000#3 ++ 0b1111111111111#13 ++ 0b11111111#8 ++ 0b0000#4 ++ 0b0000#4) = .ok .nop := by
  decide

theorem test_decode_init :
    decode (0b000#3 ++ 0b0000100000000#13 ++ 0b00000000#8 ++ 0b0000#4 ++ 0b0001#4) = .ok (.init 0x100) := by decide

theorem test_decode_tsparse :
    decode (0b000#3 ++ 0b0000000000000#13 ++ 0b00000000#8 ++ 0b0000#4 ++ 0b0010#4) = .ok .tsparse := by decide

theorem test_decode_afparse :
    decode (0b000#3 ++ 0b0000000000000#13 ++ 0b00000000#8 ++ 0b0000#4 ++ 0b0011#4) = .ok .afparse := by decide

theorem test_decode_afstuff :
    decode (0b000#3 ++ 0b0000000000000#13 ++ 0b00000000#8 ++ 0b0000#4 ++ 0b0100#4) = .ok .afstuff := by decide

theorem test_decode_pesparse :
    decode (0b000#3 ++ 0b0000000000000#13 ++ 0b10111011#8 ++ 0b0000#4 ++ 0b0101#4) = .ok (.pesparse 187) := by decide

theorem test_decode_absorb :
    decode (0b000#3 ++ 0b0000000000000#13 ++ 0b00000000#8 ++ 0b0000#4 ++ 0b0110#4) = .ok .absorb := by decide

theorem test_decode_frame :
    decode (0b000#3 ++ 0b0000000000000#13 ++ 0b00000000#8 ++ 0b0000#4 ++ 0b0111#4) = .ok .frame := by decide

theorem test_decode_clear :
    decode (0b000#3 ++ 0b0000000000000#13 ++ 0b00001111#8 ++ 0b0000#4 ++ 0b1000#4) = .ok (.clear 15) := by decide

/-- C12, C14, C13, C17, C15: the illegal words, each by its reason. -/
theorem test_decode_illegal :
    decode 0x00000010 = .error .reservedBits ∧ decode 0xE0000000 = .error .reservedBits ∧
      decode 0x00000009 = .error (.reservedOpcode 9) ∧ decode 0x0000BC05 = .error (.offsetPastFrame 188) ∧
      decode 0xFFFF0808 = .error .reservedBits := by decide

/-- The words of 95_test_vectors.md P1 to P4 and CLEARALL (30_encoding.md R134). -/
theorem test_encode :
    encode (.init 0x44) = 0x00440001 ∧ encode (.pesparse 12) = 0x00000C05 ∧ encode (.clear 15) = 0x00000F08 ∧
      encode .frame = 0x00000007 ∧ assemble .PESPARSE (some 188) = none ∧ assemble .INIT (some 8192) = none := by decide

/-! ### NOP, INIT, CLEAR (95 section C) -/

/-- C11: IMM8 and PID13 of NOP are ignored. -/
theorem test_nop_c11 : runCommand 0x1FFFFF00 base = .next base := rfl

/-- C1. -/
theorem test_init_c1 :
    let t := after (runCommand 0x1FFF0001 { base with asm := assembling 14 184 })
    readWord t 0x00C = 0x00001FFF ∧ readWord t 0x004 = 0x00000001 ∧ readWord t 0x008 = 0 ∧ t.asm.bufLen = 0 := by decide

/-- C3: INIT leaves STATUS.OVF. -/
theorem test_init_c3 : (after (runCommand 0x01000001 { base with ovf := true })).ovf = true := by decide

/-- C6. -/
theorem test_clear_c6 :
    let t := after (runCommand 0x00000808 { base with ovf := true, port := ⟨true, 3⟩, ts := tsOf 0x100 true 1 0 })
    t.ovf = false ∧ t.port.oob = false ∧ t.ts = tsOf 0x100 true 1 0 ∧ readWord t 0x004 = 0x00000001 := by decide

/-- C5: CLEAR PES leaves the assembler. -/
theorem test_clear_c5 :
    let t := after (exec (.clear 4) { base with pes := { PesRegs.zero with pktLen := 1000 }, asm := assembling 14 184 })
    t.pes = PesRegs.zero ∧ t.asm = assembling 14 184 := by decide

/-! ### TSPARSE (95 section T) -/

/-- T6. -/
theorem test_tsparse_t6 :
    let t := after (exec .tsparse (loaded [0x47, 0xA0, 0x21, 0xCA]))
    readWord t 0x004 = 0x00040001 ∧ readWord t 0x010 = 0x00210547 ∧ readWord t 0x014 = 0x00000A03 := by decide

/-- T2. -/
theorem test_tsparse_t2 :
    let t := after (exec .tsparse (loaded [0x48, 0x41, 0x00, 0x10]))
    readWord t 0x004 = 0x00000009 ∧ readWord t 0x010 = 0x00000048 ∧ readWord t 0x014 = 0 := by decide

/-! ### AFPARSE and AFSTUFF (95 section A) -/

/-- The frame of A16. -/
def a16 : List Byte :=
  [0x47, 0x01, 0x00, 0x20, 0xB7, 0x1F, 0x00, 0x00, 0x00, 0x80, 0x7E, 0x00, 0x40, 0x00, 0x00, 0x00, 0x7F, 0x2C, 0xFE,
    0x02, 0x11, 0x22, 0x03, 0x01, 0x02, 0x03]

/-- A16, AFPARSE: every sub-field. -/
theorem test_afparse_a16 :
    let t := after (exec .afparse { loaded a16 with ts := tsOf 0x100 false 2 0 })
    t.result = ⟨.ok, 184⟩ ∧ t.af.pcrBase = 0x100 ∧ t.af.pcr = 76800 ∧ t.af.opcrBase = 0x80000000 ∧
      t.af.opcr = 644245094700 ∧ readWord t 0x024 = 0x000302FE := by decide

/-- A8: LEN 184 with control value 3. -/
theorem test_afparse_a8 :
    let t := after (exec .afparse { loaded [0x47, 0x01, 0x00, 0x30, 0xB8, 0x00] with ts := tsOf 0x100 false 3 0 })
    readWord t 0x004 = 0x0000000A ∧ readWord t 0x020 = 0x00000003 := by decide

/-- A16, AFSTUFF: private data and extension lengths read from the frame. -/
theorem test_afstuff_a16 :
    let t := after (exec .afstuff { loaded a16 with af := { AfRegs.zero with ctrl := 2, len := 183, flags := 0x1F } })
    t.result = ⟨.ok, 162⟩ ∧ t.af.stuff = 162 := by decide

/-- A14: a flagged field that did not fit is counted, and the count is clamped to 0. -/
theorem test_afstuff_a14 :
    let t := after (exec .afstuff { base with af := { AfRegs.zero with ctrl := 3, len := 7, flags := 0x18, stuff := 9 } })
    t.result = ⟨.ok, 0⟩ ∧ t.af.stuff = 0 := by decide

/-! ### PESPARSE (95 section P) -/

/-- V2: PTS and DTS. -/
theorem test_pesparse_v2 :
    let t := after (exec (.pesparse 4) (loaded
      [0x47, 0x41, 0x00, 0x10, 0x00, 0x00, 0x01, 0xE0, 0x00, 0x20, 0x84, 0xC0, 0x0A, 0x39, 0x8D, 0x15, 0xCF, 0x13, 0x19,
        0x8D, 0x15, 0xB7, 0x9D]))
    readWord t 0x004 = 0x00130001 ∧ t.pes.pts = 0x123456789 ∧ t.pes.dts = 0x123455BCE ∧ readWord t 0x058 = 0x010AC084 := by
  decide

/-- V16: the header runs past the frame; what the draws do not reach is known, and STATUS.OOB is set. -/
theorem test_pesparse_v16 :
    let t := after (exec (.pesparse 180)
      { base with frame := ⟨cellsFrom 180 [0x00, 0x00, 0x01, 0xE0, 0x00, 0x20, 0x80, 0x80], 0⟩ })
    t.port.oob = true ∧ readWord t 0x050 = 0xE0000001 ∧ t.pes.pktLen = 32 ∧ t.pes.flags2 = 0x80 := by decide

/-! ### ABSORB and FRAME (95 section S and program P3) -/

/-- S23, step 4: the continuation that does not fit. -/
theorem test_absorb_s23 :
    let t := after (exec .absorb { base with ts := tsOf 0x100 false 1 5, asm := assembling 4 65688 })
    readWord t 0x004 = 0x0000000D ∧ readWord t 0x008 = 0x00000054 ∧ t.asm.bufLen = 65688 := by decide

/-- S20: the counter is checked before the unit start. -/
theorem test_absorb_s20 :
    let t := after (exec .absorb { base with ts := tsOf 0x100 true 1 5, asm := assembling 0 184 })
    readWord t 0x004 = 0x00000005 ∧ t.asm.lastCc = 0 ∧ t.asm.bufLen = 184 ∧ t.asm.active = false := by decide

/-- 44_frame_and_control.md R295. -/
theorem test_frame_r295 :
    let t := after (exec .frame (loaded
      [0x47, 0x41, 0x00, 0x30, 0x07, 0x10, 0x00, 0x00, 0x00, 0x01, 0x7E, 0x05, 0x00, 0x00, 0x01, 0xC0, 0x00, 0x20, 0x00,
        0x00, 0x00]))
    readWord t 0x004 = 0x00B00004 ∧ t.af.pcr = 605 ∧ t.asm.bufLen = 176 ∧ t.pes.pktLen = 32 := by decide

/-- S25: a unit start without payload starts no unit; its stuffing is counted. -/
theorem test_frame_s25 :
    let t := after (exec .frame (loaded [0x47, 0x41, 0x00, 0x20, 0xB7, 0x00]))
    readWord t 0x004 = 0x00000007 ∧ t.asm.stuffTotal = 182 ∧ t.asm.active = false := by decide

/-! ### The host's side -/

/-- P1: the first and second words of the LOAD of its first frame. -/
theorem test_load_p1 :
    (hostLoad [0x47, 0x41, 0x00, 0x10, 0x00, 0x00, 0x01, 0xE0] 0xAB).take 3 =
      [.write 0x400 .word 0x10004147, .write 0x404 .word 0xE0010000, .write 0x408 .word 0xABABABAB] := by decide

/-- P1 and 30_encoding.md R131, R132: command lines; an operand out of range is an assembly error. -/
theorem test_text_commands :
    Text.lineOf "        INIT  0x100      ; 0x01000001".toList = some (.events [.write 0x000 .word 0x01000001]) ∧
      Text.lineOf "CLEAR TS|AF".toList = Text.lineOf "CLEAR 3".toList ∧
      Text.lineOf "CLEARALL".toList = some (.events [.write 0x000 .word 0x00000F08]) ∧
      Text.lineOf "PESPARSE 188".toList = none := by decide

/-- P3: the raw-word line, its word at the ends of 32 bits. -/
theorem test_text_raw_word :
    Text.lineOf "        CMD      0x00000010               ; -> ILLEGAL_COMMAND(0) 0x0000000E".toList =
        some (.events [.write 0x000 .word 0x00000010]) ∧
      Text.lineOf "CMD 0xFFFFFFFF".toList = some (.events [.write 0x000 .word 0xFFFFFFFF]) ∧
      Text.lineOf "CMD 0x100000000".toList = none := by decide

/-- P1 and P4: host operations. -/
theorem test_text_host_operations :
    Text.lineOf "LOAD  47 01 00 11  fill CD".toList = some (.events (hostLoad [0x47, 0x01, 0x00, 0x11] 0xCD)) ∧
      Text.lineOf "READ     PESBUF word 0            ; 0xE0010000".toList =
        some (.events [.read 0x100000 .word]) ∧
      Text.lineOf "EXPECT RESULT.VALUE = 184".toList = some (.expect .result 16 16 184) := by decide

/-- 20_memory.md R66: a FRAME write, and the word read back. -/
theorem test_frame_window :
    let t := after (step (waiting (.write 0x400 .word 0x10004147)))
    t.frame.byte 0 = 0x47 ∧ t.frame.byte 3 = 0x10 ∧ readWord t 0x400 = 0x10004147 := by decide

/-- P1: PESBUF word 0. -/
theorem test_pesbuf_window :
    readWord { base with pesBuf := ⟨cellsFrom 0 [0x00, 0x00, 0x01, 0xE0], 0⟩, asm := assembling 0 4 } 0x100000 =
      0xE0010000 := by decide

/-- A2's PCR in its four registers (41_adaptation_field.md R178). -/
theorem test_pcr_registers :
    let s := { base with af := { AfRegs.zero with pcrBase := 0x1FFFFFFFF, pcrExt := 511, pcr := 2576980377811 } }
    readWord s 0x028 = 0xFFFFFFFF ∧ readWord s 0x02C = 0x01FF0001 ∧ readWord s 0x030 = 0x000000D3 ∧
      readWord s 0x034 = 0x00000258 := by decide

/-- 20_memory.md R60: a byte access has no step. -/
theorem test_byte_access_refused : step (waiting (.read 0x004 .byte)) = .refused (.unsupportedAccess 0x004) :=
  rfl

/-- The word the host places is the next command the step runs (log 1). -/
theorem test_withFetchWord : (after (step (base.withFetchWord 32 0x01000001))).asm.targetPid = 0x100 := by decide

theorem test_decodeTableWord : decodeTableWord 32 0x01000001 = some (.init 0x100) ∧ decodeTableWord 32 0x10 = none := by
  decide

/-! ### Witnesses: states and operands that meet the hypotheses of the obligation named, at a boundary where there is one -/

theorem witness_DecodeEncodeRoundTrip :
    (Instr.pesparse 187).wellFormed = true ∧ (Instr.init 0x1FFF).wellFormed = true ∧
      (Instr.clear 0xFF).wellFormed = true ∧ Instr.nop.wellFormed = true := by decide

/-- Words of every clause: each kind of illegal word, and each legal OP. -/
theorem witness_DecodeIsTotal :
    (∀ w ∈ ([0x00000010, 0x20000000, 0x00000009, 0x0000000F, 0x0000BC05] : List Word), IllegalWord w) ∧
      (∀ w ∈ ([0, 1, 2, 3, 4, 0x0000BB05, 6, 7, 0x1FFFFF08] : List Word), ¬IllegalWord w) ∧
      ([0, 1, 2, 3, 4, 0x0000BB05, 6, 7, 0x1FFFFF08] : List Word).map opOf = [0, 1, 2, 3, 4, 5, 6, 7, 8] := by
  simp [IllegalWord, rsv0Of, rsv1Of, opOf, imm8Of]

theorem pending_command (w : Word) : CmdPending (waiting (hostCommand w)) w [] := ⟨rfl, rfl⟩

theorem witness_IllegalCommandChangesOnlyResult :
    (CmdPending (waiting (hostCommand 0x0F)) 0x0F [] ∧ IllegalWord 0x0F) ∧
      (CmdPending (waiting (hostCommand 8)) 8 [] ∧ ¬IllegalWord 8) :=
  ⟨⟨pending_command _, by unfold IllegalWord; decide⟩, pending_command _, by unfold IllegalWord; decide⟩

/-- CLEAR 15 with and without its ignored fields; INIT, PESPARSE and AFPARSE likewise. -/
theorem witness_UnusedFieldsIgnored :
    (¬IllegalWord 0x00000F08 ∧ ¬IllegalWord 0x1FFFFF08 ∧ opOf 0x00000F08 = opOf 0x1FFFFF08 ∧
      imm8Of 0x00000F08 % 16 = imm8Of 0x1FFFFF08 % 16) ∧
    (¬IllegalWord 0x01000001 ∧ ¬IllegalWord 0x0100FF01 ∧ opOf 0x01000001 = opOf 0x0100FF01 ∧
      pid13Of 0x01000001 = pid13Of 0x0100FF01) ∧
    (¬IllegalWord 0x0000BB05 ∧ ¬IllegalWord 0x1FFFBB05 ∧ opOf 0x0000BB05 = opOf 0x1FFFBB05 ∧
      imm8Of 0x0000BB05 = imm8Of 0x1FFFBB05) ∧
    (¬IllegalWord 3 ∧ ¬IllegalWord 0x1FFFFF03 ∧ opOf 3 = opOf 0x1FFFFF03) ∧ IllegalWord 0xFFFF0808 := by
  unfold IllegalWord
  refine ⟨?_, ?_, ?_, ?_, ?_⟩ <;> decide

theorem witness_StepRunsDecodedCommand :
    (CmdPending (waiting (hostCommand 7)) 7 [] ∧ decode 7 = .ok .frame) ∧ base.hostQueue = [] :=
  ⟨⟨pending_command _, by decide⟩, rfl⟩

theorem witness_ResetReleaseState :
    ({ waiting .releaseReset with inReset := true } : State).inReset = true ∧
      ({ waiting .releaseReset with inReset := true } : State).hostQueue = [.releaseReset] := ⟨rfl, rfl⟩

/-- A byte access, a misaligned word, and the last aligned word address. -/
theorem witness_OnlyAlignedWordsServed :
    ((waiting (.read 0x000 .byte)).inReset = false ∧ (waiting (.read 0x000 .byte)).hostQueue = [.read 0x000 .byte]) ∧
      (waiting (.write 0x402 .word 1)).hostQueue = [.write 0x402 .word 1] ∧ ¬(0x402 : Addr).toNat % 4 = 0 ∧
      (waiting (.write 0xFFFFFC .word 1)).hostQueue = [.write 0xFFFFFC .word 1] ∧ (0xFFFFFC : Addr).toNat % 4 = 0 := by
  decide

/-- A read, a CMD write, an assertion (the input not asserted, and asserted) and a spare release. -/
theorem witness_NoAccessDuringReset :
    ({ waiting (.read 0x004 .word) with inReset := true } : State).inReset = true ∧
      ({ waiting (.read 0x004 .word) with inReset := true } : State).hostQueue = [.read 0x004 .word] ∧
      ({ waiting (.write 0x000 .word 7) with inReset := true } : State).hostQueue = [.write 0x000 .word 7] ∧
      (waiting .assertReset).hostQueue = [.assertReset] ∧ (waiting .assertReset).inReset = false ∧
      ({ waiting .assertReset with inReset := true } : State).hostQueue = [.assertReset] ∧
      (waiting .releaseReset).hostQueue = [.releaseReset] ∧ (waiting .releaseReset).inReset = false := by decide

/-- The last word of the FRAME window, written and read. -/
theorem witness_FrameWindowWord :
    46 < 47 ∧ (0x4B8 : Addr).toNat = 0x400 + 4 * 46 ∧ (waiting (.write 0x4B8 .word 1)).inReset = false ∧
      (waiting (.write 0x4B8 .word 1)).hostQueue = [.write 0x4B8 .word 1] ∧
      (waiting (.read 0x4B8 .word)).hostQueue = [.read 0x4B8 .word] := by decide

/-- The last word of the PESBUF window, whole and (with a capacity of 65,725) with one byte inside. -/
theorem witness_PesBufWindowWord :
    4 * 16430 < base.params.pesBufCap ∧ (0x1100B8 : Addr).toNat = 0x100000 + 4 * 16430 ∧
      (waiting (.read 0x1100B8 .word)).hostQueue = [.read 0x1100B8 .word] ∧
      4 * 16431 < ({ base with params := ⟨0x47, 65725⟩ } : State).params.pesBufCap ∧
      ¬4 * 16431 + 1 < ({ base with params := ⟨0x47, 65725⟩ } : State).params.pesBufCap ∧
      (0x1100BC : Addr).toNat = 0x100000 + 4 * 16431 ∧
      (waiting (.write 0x1100B8 .word 1)).hostQueue = [.write 0x1100B8 .word 1] := by decide

/-- Unmapped words beside the two windows and in the register area; CMD; a write of a read-only register. -/
theorem witness_ReadsAndIgnoredWrites :
    Unmapped 65724 (0x018 : Addr).toNat ∧ Unmapped 65724 (0x3FC : Addr).toNat ∧ Unmapped 65724 (0x4BC : Addr).toNat ∧
      Unmapped 65724 (0x1100BC : Addr).toNat ∧ (0x4BC : Addr).toNat % 4 = 0 ∧
      (waiting (.read 0x4BC .word)).hostQueue = [.read 0x4BC .word] ∧
      (waiting (.read 0x000 .word)).hostQueue = [.read 0x000 .word] ∧
      (waiting (.write 0x004 .word 1)).hostQueue = [.write 0x004 .word 1] ∧ (0x004 : Addr).toNat ≠ 0x000 ∧
      ¬(0x400 ≤ (0x004 : Addr).toNat ∧ (0x004 : Addr).toNat ≤ 0x4BB) := by
  unfold Unmapped; decide

/-- The least and the greatest capacity. -/
theorem witness_RegisterMapValues :
    base.params.legal ∧ ({ base with params := ⟨0x47, 15728640⟩ } : State).params.legal := by decide

theorem witness_NopChangesNothing :
    CmdPending (waiting (hostCommand 0x1FFFFF00)) 0x1FFFFF00 [] ∧ opOf 0x1FFFFF00 = 0 ∧ rsv0Of 0x1FFFFF00 = 0 ∧
      rsv1Of 0x1FFFFF00 = 0 := ⟨pending_command _, by decide⟩

theorem witness_InitConfiguresAssembler : 8191 ≤ 8191 ∧ 255 ≤ 255 ∧ 0 ≤ 8191 := by decide

theorem witness_ClearByMask : 255 ≤ 255 ∧ 8191 ≤ 8191 ∧ 0 ≤ 255 := by decide

theorem witness_TsparseDecodesHeader :
    (loaded [0x47, 0xFF, 0xFF, 0xFF]).frame.byte 0 = (loaded [0x47, 0xFF, 0xFF, 0xFF]).params.syncByte ∧
      (loaded [0x48]).frame.byte 0 ≠ (loaded [0x48]).params.syncByte := by decide

/-! #### AFPARSE and AFSTUFF -/

/-- A frame with a length byte and a flags byte, under a control value. -/
def afState (afc : BitVec 2) (len flags : Byte) : State :=
  { loaded [0x47, 0x01, 0x00, 0x30, len, flags, 0, 0, 0, 0, 0, 0] with ts := tsOf 0x100 false afc 0 }

/-- Both lengths at their bounds and past them, under both control values, and a packet without a field. -/
theorem witness_AfparseResultCodes :
    (HasField (afState 3 183 0).ts.afc ∧ ¬TooLong (afState 3 183 0).frame 3) ∧
      (HasField (afState 2 184 0).ts.afc ∧ ¬TooLong (afState 2 184 0).frame 2) ∧
      TooLong (afState 3 184 0).frame (afState 3 184 0).ts.afc ∧ TooLong (afState 2 185 0).frame (afState 2 185 0).ts.afc ∧
      (afState 0 7 0).ts.afc = 0 ∧ (afState 1 7 0).ts.afc = 1 := by
  unfold HasField TooLong; decide

theorem witness_AfparseWalksTheField :
    ¬HasField (afState 1 7 0).ts.afc ∧ TooLong (afState 3 184 0).frame (afState 3 184 0).ts.afc ∧
      (HasField (afState 3 7 0x10).ts.afc ∧ ¬TooLong (afState 3 7 0x10).frame 3) := by
  unfold HasField TooLong; decide

theorem witness_StuffingAfterAfparse :
    HasField (afState 3 1 0).ts.afc ∧ ¬TooLong (afState 3 1 0).frame (afState 3 1 0).ts.afc ∧
      1 ≤ fb (afState 3 1 0).frame 4 := by
  unfold HasField TooLong; decide

theorem witness_SourceStuffingProperties :
    ((afState 3 7 0x10).ts.afc = 3 ∧ fb (afState 3 7 0x10).frame 4 = 7 ∧ fb (afState 3 7 0x10).frame 5 = 0x10 ∧
      beNat (afState 3 7 0x10).frame 6 6 = 0) ∧
      (HasField (afState 2 184 0).ts.afc ∧ ¬TooLong (afState 2 184 0).frame 2 ∧ 1 ≤ fb (afState 2 184 0).frame 4 ∧
        fb (afState 2 184 0).frame 5 = 0) := by
  unfold HasField TooLong; decide

/-! #### PESPARSE -/

/-- A frame whose PES header stands at index 0. -/
def pesState (bytes : List Byte) : State := { base with frame := frameOf bytes }

theorem witness_PesparseDecodesHeader : 187 ≤ 187 := by decide

/-- One state of each row, the identifiers and lengths at their bounds. -/
theorem witness_PesparseResultTable :
    187 < (188 : Byte).toNat ∧ startNat (pesState [0, 0, 2]).frame 0 0 ≠ 1 ∧
      (startNat (pesState [0, 0, 1, 0xBF]).frame 0 0 = 1 ∧ ¬AudioVideo (pesState [0, 0, 1, 0xBF]).frame 0 0) ∧
      ¬AudioVideo (pesState [0, 0, 1, 0xF0]).frame 0 0 ∧
      (AudioVideo (pesState [0, 0, 1, 0xC0, 0, 2]).frame 0 0 ∧ pktNat (pesState [0, 0, 1, 0xC0, 0, 2]).frame 0 0 < 3) ∧
      (AudioVideo (pesState [0, 0, 1, 0xEF, 0, 3]).frame 0 0 ∧ 3 ≤ pktNat (pesState [0, 0, 1, 0xEF, 0, 3]).frame 0 0) := by
  unfold AudioVideo; decide

/-- P = 169, the largest stamp value, the prefix 15. -/
theorem witness_PesparseStampProperty :
    let f : FrameBuf :=
      ⟨cellsFrom 169 [0x00, 0x00, 0x01, 0xE0, 0x00, 0x03, 0x80, 0x80, 0x00, 0xFF, 0xFF, 0xFF, 0xFF, 0xFF], 0⟩
    169 ≤ 169 ∧ fb f 169 = 0 ∧ fb f 170 = 0 ∧ fb f 171 = 1 ∧ 192 ≤ fb f 172 ∧ fb f 172 ≤ 239 ∧
      3 ≤ fb f 173 * 256 + fb f 174 ∧ bitOf (fb f 176) 7 = true ∧ fb f 178 = 15 * 16 + 8589934591 / 2 ^ 30 * 2 + 1 ∧
      fb f 179 = 8589934591 / 2 ^ 22 % 256 ∧ fb f 180 = 8589934591 / 2 ^ 15 % 128 * 2 + 1 ∧
      fb f 181 = 8589934591 / 2 ^ 7 % 256 ∧ fb f 182 = 8589934591 % 128 * 2 + 1 := by decide

/-! #### ABSORB -/

theorem hasPayload_one : HasPayload 1 := .inl rfl

theorem not_hasField_one : ¬HasField 1 := by unfold HasField; decide

theorem offRef_payloadOnly {s : State} (h : s.ts.afc = 1) : offRef s = 4 := by
  rw [offRef, h, if_neg not_hasField_one]

theorem pays_payloadOnly {s : State} (h : s.ts.afc = 1) : Pays s := by
  refine ⟨h ▸ hasPayload_one, ?_⟩
  rw [offRef_payloadOnly h]; decide

theorem ccOk_payloadOnly {s : State} (h : s.ts.afc = 1) : CcOk s ↔ s.ts.cc.toNat = (s.asm.lastCc.toNat + 1) % 16 := by
  unfold CcOk; rw [h, if_pos hasPayload_one]

/-- A payload-only packet of target 0x100 with counter 1, its unit-start bit and first payload bytes given; a unit is in
progress with last counter 0. -/
def packetState (pusi : Bool) (bufLen : BitVec 32) (bytes : List Byte) : State :=
  { base with
    ts := tsOf 0x100 pusi 1 1
    asm := assembling 0 bufLen
    frame := ⟨cellsFrom 4 bytes, 0⟩ }

theorem packetState_accepted (pusi : Bool) (bufLen : BitVec 32) (bytes : List Byte) :
    Accepted (packetState pusi bufLen bytes) :=
  ⟨rfl, fun _ => (ccOk_payloadOnly rfl).2 rfl⟩

theorem packetState_pays (pusi : Bool) (bufLen : BitVec 32) (bytes : List Byte) :
    Pays (packetState pusi bufLen bytes) := pays_payloadOnly rfl

theorem witness_AbsorbIgnoresOtherPids :
    ({ packetState false 184 [] with ts := tsOf 0x200 false 1 9 } : State).ts.pid ≠ (packetState false 184 []).asm.targetPid := by
  decide

/-- A repeated counter during a unit, a correct one, and no unit in progress. -/
theorem witness_AbsorbContinuityCheck :
    (∃ s : State, s.ts.pid = s.asm.targetPid ∧ s.asm.active = true ∧ ¬CcOk s) ∧
      (∃ s : State, s.ts.pid = s.asm.targetPid ∧ s.asm.active = true ∧ CcOk s) ∧
      (∃ s : State, s.ts.pid = s.asm.targetPid ∧ s.asm.active = false) := by
  refine ⟨⟨{ packetState false 184 [] with ts := tsOf 0x100 false 1 0 }, rfl, rfl, ?_⟩,
    ⟨packetState false 184 [], rfl, rfl, (ccOk_payloadOnly rfl).2 rfl⟩, ⟨base, rfl, rfl⟩⟩
  rw [ccOk_payloadOnly rfl]; decide

theorem witness_AbsorbTransitionTable : base.params.legal ∧ base.asm.bufLen.toNat ≤ base.params.pesBufCap := by decide

theorem witness_AbsorbWrites :
    (packetState false 65724 []).params.legal ∧
      (packetState false 65724 []).asm.bufLen.toNat ≤ (packetState false 65724 []).params.pesBufCap := by decide

theorem drawsAfterStuff_payloadOnly {s : State} (h : s.ts.afc = 1) : drawsAfterStuff s = s.port.draws := by
  rw [drawsAfterStuff, portAfterStuff, h, if_neg not_hasField_one]

theorem goodStart_payloadOnly {s : State} (h : s.ts.afc = 1) : GoodStart s ↔ startNat s.frame s.port.draws 4 = 1 := by
  rw [GoodStart, drawsAfterStuff_payloadOnly h, offRef_payloadOnly h]

theorem witness_AbsorbUnitStartStoresPayload :
    ∃ s : State, Accepted s ∧ Pays s ∧ s.ts.pusi = true ∧ GoodStart s :=
  ⟨packetState true 184 [0, 0, 1], packetState_accepted _ _ _, packetState_pays _ _ _, rfl,
    (goodStart_payloadOnly rfl).2 (by decide)⟩

theorem fits_payloadOnly {s : State} (h : s.ts.afc = 1) : Fits s ↔ s.asm.bufLen.toNat + 184 ≤ s.params.pesBufCap := by
  rw [Fits, lenRef, offRef_payloadOnly h]

/-- A unit that fills the buffer exactly. -/
theorem witness_AbsorbContinuationStoresPayload :
    ∃ s : State, s.params.legal ∧ Accepted s ∧ Pays s ∧ s.ts.pusi = false ∧ s.asm.active = true ∧ Fits s :=
  ⟨packetState false 65540 [], by decide, packetState_accepted _ _ _, packetState_pays _ _ _, rfl, rfl,
    (fits_payloadOnly rfl).2 (by decide)⟩

/-- A unit one byte too long. -/
theorem witness_AbsorbOverflowAppendsNothing :
    ∃ s : State, Accepted s ∧ Pays s ∧ s.ts.pusi = false ∧ s.asm.active = true ∧ ¬Fits s :=
  ⟨packetState false 65541 [], packetState_accepted _ _ _, packetState_pays _ _ _, rfl, rfl,
    by rw [fits_payloadOnly rfl]; decide⟩

theorem witness_HeaderFailureAbandonsUnit :
    (∃ s : State, Accepted s ∧ Pays s ∧ s.ts.pusi = true ∧ ¬GoodStart s ∧ s.asm.targetPid = 0x100) ∧
      ∃ p : Packet, ∀ t : State, t.asm.targetPid = 0x100 →
        p.ts.pid = t.asm.targetPid ∧ p.ts.pusi = false ∧ Pays (feed t p) :=
  ⟨⟨packetState true 184 [0, 0, 2], packetState_accepted _ _ _, packetState_pays _ _ _, rfl,
      by rw [goodStart_payloadOnly rfl]; decide, rfl⟩,
    ⟨⟨tsOf 0x100 false 1 2, AfRegs.zero, frameOf []⟩, fun _ h => ⟨h.symm, rfl, pays_payloadOnly rfl⟩⟩⟩

theorem witness_BoundedUnitsNeverOverflow :
    ∃ s : State, s.params.legal ∧ s.pes.pktLen ≠ 0 ∧ s.asm.bufLen.toNat < 6 + s.pes.pktLen.toNat :=
  ⟨{ packetState false 65540 [] with pes := { PesRegs.zero with pktLen := 65535 } }, by decide, by decide, by decide⟩

theorem witness_UnboundedUnitNeverFinishes : ∃ s : State, s.pes.pktLen = 0 ∧ ¬(s.ts.pusi = true ∧ Pays s) :=
  ⟨packetState false 184 [], rfl, fun h => absurd h.1 (by decide)⟩

/-- A continuation packet of target 0x100. -/
def continuation (cc : BitVec 4) : Packet := ⟨tsOf 0x100 false 1 cc, AfRegs.zero, frameOf []⟩

/-- Counters 15 and 0, after a unit in progress with last counter 14. -/
theorem witness_NoGapNoContinuityLoss :
    ∃ s : State, Consecutive s.asm.targetPid 15 [continuation 15, continuation 0] ∧ s.asm.active = true ∧
      (15 : BitVec 4) = s.asm.lastCc + 1 :=
  ⟨{ base with asm := assembling 14 184 },
    ⟨rfl, hasPayload_one, rfl, rfl, hasPayload_one, rfl, trivial⟩, rfl, rfl⟩

/-- One packet without a gap, then one whose counter skips 2. -/
theorem witness_OneGapOneContinuityLoss :
    ∃ (s t : State) (before : List ResultCode), Consecutive s.asm.targetPid 1 [continuation 1] ∧
      (s.asm.active = true → (1 : BitVec 4) = s.asm.lastCc + 1) ∧ absorbRun s [continuation 1] = some (t, before) ∧
      t.asm.active = true ∧ Consecutive s.asm.targetPid 3 [continuation 3] ∧ [continuation 3] ≠ [] ∧
      (3 : BitVec 4) ≠ t.asm.lastCc + 1 :=
  ⟨packetState false 184 [],
    after (exec .absorb (feed (packetState false 184 []) (continuation 1))), [.continues],
    ⟨rfl, hasPayload_one, rfl, trivial⟩, fun _ => rfl, rfl, rfl, ⟨rfl, hasPayload_one, rfl, trivial⟩,
    List.cons_ne_nil _ _, by decide⟩

/-! #### FRAME -/

/-- The four commands in a row. -/
def sequence (s : State) : State × State × State × State :=
  let t1 := after (exec .tsparse s)
  let t2 := after (exec .afparse t1)
  let t3 := after (exec .afstuff t2)
  (t1, t2, t3, after (exec .absorb t3))

theorem sequence_runs (s : State) :
    exec .tsparse s = .next (sequence s).1 ∧ exec .afparse (sequence s).1 = .next (sequence s).2.1 ∧
      exec .afstuff (sequence s).2.1 = .next (sequence s).2.2.1 ∧
      exec .absorb (sequence s).2.2.1 = .next (sequence s).2.2.2 := ⟨rfl, rfl, rfl, rfl⟩

/-- A bad sync byte, a length past its bound, and a frame that is absorbed without a draw; `sequence_runs` gives the runs. -/
theorem witness_FrameEqualsCommandSequence :
    (sequence (loaded [0x46])).1.result.code ≠ .ok ∧
      ((sequence (loaded [0x47, 0x01, 0x00, 0x31, 0xB8])).1.result.code = .ok ∧
        (sequence (loaded [0x47, 0x01, 0x00, 0x31, 0xB8])).2.1.result.code ≠ .ok) ∧
      ((sequence (loaded [0x47, 0x01, 0x00, 0x11])).1.result.code = .ok ∧
        (sequence (loaded [0x47, 0x01, 0x00, 0x11])).2.1.result.code = .ok ∧
        (sequence (loaded [0x47, 0x01, 0x00, 0x11])).2.2.2.port.draws = (loaded [0x47, 0x01, 0x00, 0x11]).port.draws) := by
  decide

theorem witness_FrameStopsOnFailedParse :
    (loaded [0x46]).frame.byte 0 ≠ (loaded [0x46]).params.syncByte ∧
      ((loaded [0x47, 0x01, 0x00, 0x31, 0xB8]).frame.byte 0 = (loaded [0x47, 0x01, 0x00, 0x31, 0xB8]).params.syncByte ∧
        TooLong (loaded [0x47, 0x01, 0x00, 0x31, 0xB8]).frame (tsRef (loaded [0x47, 0x01, 0x00, 0x31, 0xB8]).frame).afc) := by
  unfold TooLong; decide

theorem witness_FrameWrites :
    ((loaded [0x47, 0x01, 0x00, 0x11]).params.legal ∧
      (loaded [0x47, 0x01, 0x00, 0x11]).asm.bufLen.toNat ≤ (loaded [0x47, 0x01, 0x00, 0x11]).params.pesBufCap ∧
      (loaded [0x47, 0x01, 0x00, 0x11]).frame.byte 0 = 0x47 ∧
      ¬TooLong (loaded [0x47, 0x01, 0x00, 0x11]).frame (tsRef (loaded [0x47, 0x01, 0x00, 0x11]).frame).afc) ∧
      ∀ s : State, ∃ t1 t2 t3, exec .tsparse s = .next t1 ∧ exec .afparse t1 = .next t2 ∧ exec .afstuff t2 = .next t3 :=
  ⟨⟨by decide, by decide, by decide, by unfold TooLong; decide⟩, fun _ => ⟨_, _, _, rfl, rfl, rfl⟩⟩

/-- 95_test_vectors.md P2, the frame of PID 0x101; and one with an adaptation field. -/
theorem witness_FrameOfOtherPid :
    ((loaded [0x47, 0x01, 0x01, 0x19]).frame.byte 0 = (loaded [0x47, 0x01, 0x01, 0x19]).params.syncByte ∧
      ¬TooLong (loaded [0x47, 0x01, 0x01, 0x19]).frame (tsRef (loaded [0x47, 0x01, 0x01, 0x19]).frame).afc ∧
      (tsRef (loaded [0x47, 0x01, 0x01, 0x19]).frame).pid ≠ (loaded [0x47, 0x01, 0x01, 0x19]).asm.targetPid) ∧
      ((loaded [0x47, 0x01, 0x01, 0x29, 0x01, 0x00]).frame.byte 0 = 0x47 ∧
        ¬TooLong (loaded [0x47, 0x01, 0x01, 0x29, 0x01, 0x00]).frame
          (tsRef (loaded [0x47, 0x01, 0x01, 0x29, 0x01, 0x00]).frame).afc ∧
        HasField (tsRef (loaded [0x47, 0x01, 0x01, 0x29, 0x01, 0x00]).frame).afc) := by
  unfold TooLong HasField; decide

/-- 95_test_vectors.md P1's two frames. -/
theorem witness_TwoFrameUnitAssembled :
    let f1 := frameOf [0x47, 0x41, 0x00, 0x10, 0x00, 0x00, 0x01, 0xE0, 0x01, 0x6A]
    let f2 := frameOf [0x47, 0x01, 0x00, 0x11]
    let s := loaded []
    s.params.legal ∧ s.asm.active = false ∧ PayloadOnlyFrame f1 s.params.syncByte s.asm.targetPid true 0 ∧
      PayloadOnlyFrame f2 s.params.syncByte s.asm.targetPid false (0 + 1) ∧
      beNat f1 4 3 = 1 ∧ 184 < 6 + beNat f1 8 2 ∧ 6 + beNat f1 8 2 ≤ 368 := by
  unfold PayloadOnlyFrame; decide

/-! #### The whole machine -/

/-- Each parse, from two states that differ in their register sets, and after a CLEAR. -/
theorem witness_ParseAfterClearSame :
    let s := loaded [0x47, 0x41, 0x00, 0x10, 0x00, 0x00, 0x02]
    let s' : State := { s with pes := { PesRegs.zero with pktLen := 5 }, ovf := true }
    ∃ t1 t2 t3 u, exec .tsparse s = .next t1 ∧ t1.port.draws = s.port.draws ∧ exec .afparse s = .next t2 ∧
      t2.port.draws = s.port.draws ∧ exec (.pesparse 4) s = .next t3 ∧ t3.port.draws = s.port.draws ∧
      s'.frame = s.frame ∧ s'.params = s.params ∧ s'.ts.afc = s.ts.afc ∧ exec (.clear 14) s = .next u ∧
      (14 : Byte).getLsbD 0 = false :=
  ⟨_, _, _, _, rfl, rfl, rfl, rfl, rfl, rfl, rfl, rfl, rfl, rfl, rfl⟩

/-- A command and a step that change the assembler. -/
theorem witness_AssemblerWriters :
    (∃ t, exec (.init 5) base = .next t ∧ t.asm ≠ base.asm) ∧
      (∃ t, step (waiting (hostCommand 0x00050001)) = .next t ∧ t.asm ≠ (waiting (hostCommand 0x00050001)).asm) ∧
      ∃ t, exec (.clear 15) base = .next t :=
  ⟨⟨_, rfl, by decide⟩, ⟨after (step (waiting (hostCommand 0x00050001))), rfl, by decide⟩, ⟨_, rfl⟩⟩

/-- A command; and CLEAR FLAGS run by a step while both flags are set. -/
theorem witness_StickyFlags :
    (∃ t, exec (.pesparse 187) base = .next t) ∧
      ∃ (s t : State), step s = .next t ∧ (s.port.oob = true ∧ t.port.oob = false) ∧ s.ovf = true ∧ t.ovf = false :=
  ⟨⟨_, rfl⟩, { waiting (hostCommand 0x00000808) with ovf := true, port := ⟨true, 1⟩ },
    after (step { waiting (hostCommand 0x00000808) with ovf := true, port := ⟨true, 1⟩ }), rfl, ⟨rfl, rfl⟩, rfl, rfl⟩

theorem witness_FrameBufferWriters :
    ∃ t, step (waiting (.write 0x400 .word 0x10004147)) = .next t ∧ t.frame ≠ base.frame :=
  ⟨after (step (waiting (.write 0x400 .word 0x10004147))), rfl, by decide⟩

/-- A legal state with a command to run. -/
theorem witness_StepKeepsLegal :
    (waiting (hostCommand 2)).Inv ∧ ∃ t, step (waiting (hostCommand 2)) = .next t :=
  ⟨⟨by decide, ⟨rfl, rfl, rfl, rfl⟩, .inr rfl,
      ⟨fun _ => Nat.zero_le _, fun _ => Nat.zero_le _, fun _ => rfl, Nat.zero_le _⟩, ⟨by decide, by decide⟩, .inl rfl,
      ⟨Nat.zero_le _, by decide⟩, fun i h => absurd h (Nat.not_lt_zero i), ⟨by decide, by decide⟩⟩,
    ⟨after (step (waiting (hostCommand 2))), rfl⟩⟩

end Sys2Proof.Tests
end

section
/-! SUPPORT. Who writes the assembler, and how ABSORB's result fixes the state it leaves the assembler in
(10_state.md R43, R44). -/

namespace Sys2Proof.Machine

/-! ### Commands that keep the assembler -/

@[simp] theorem tsBody_asm (s : State) : (tsBody s).1.asm = s.asm := rfl

@[simp] theorem afBody_asm (s : State) : (afBody s).1.asm = s.asm := rfl

@[simp] theorem stuffBody_asm (s : State) : (stuffBody s).1.asm = s.asm := rfl

@[simp] theorem pesBody_asm (p : Nat) (s : State) : (pesBody p s).1.asm = s.asm := rfl

/-- A completed command has the assembler and the result its body leaves. -/
theorem complete_next {x : State × Result} {t : State} (h : complete x = .next t) :
    t.asm = x.1.asm ∧ t.result = x.2 := by
  rw [complete_eq] at h
  cases h
  exact ⟨rfl, rfl⟩

theorem execPesparse_asm {off : Byte} {s t : State} (h : execPesparse off s = .next t) : t.asm = s.asm := by
  rcases execPesparse_cases off s with ⟨-, hrun⟩ | ⟨-, hrun⟩ <;> rw [hrun] at h
  · exact (complete_next h).1.trans (pesBody_asm _ s)
  · cases h
    rfl

theorem State.onBit_asm {op : State → State} (hop : ∀ u, (op u).asm = u.asm) (s : State) (b : Bool) :
    (s.onBit b op).asm = s.asm := by
  cases b
  · rfl
  · exact hop s

theorem execClear_asm {mask : Byte} {s t : State} (h : execClear mask s = .next t) : t.asm = s.asm := by
  rw [(complete_next h).1, State.onBit_asm State.clearSticky_asm, State.onBit_asm State.clearPes_asm,
    State.onBit_asm State.clearAf_asm, State.onBit_asm State.clearTs_asm]

/-! ### ABSORB's result and ACTIVE -/

/-- The ACTIVE that an ABSORB past its identifier filter leaves, by the code it reports; no value for the codes it never
reports there (10_state.md R43). -/
def ResultCode.activeAfter : ResultCode → Option Bool
  | .started | .continues => some true
  | .finished | .lostContinuity | .lostOutOfSync | .lostNoPayload | .bufferOverflow | .invalidStartCode => some false
  | .none | .ok | .unexpectedId | .invalidSync | .invalidLength | .invalidInput | .illegalCommand => .none

/-- The code reported goes with the ACTIVE left. -/
def ActiveAgrees (x : State × Result) : Prop := x.2.code.activeAfter = some x.1.asm.active

theorem finishUnit_activeAgrees {s : State} {more : ResultCode} (h : more.activeAfter = some s.asm.active) (n : Nat) :
    ActiveAgrees (finishUnit s more n) := by
  unfold finishUnit
  split
  · rfl
  · exact h

theorem absorbStart_activeAgrees (off n stuff : Nat) (s : State) : ActiveAgrees (absorbStart off n stuff s) := by
  rw [absorbStart_cases]
  split
  · exact finishUnit_activeAgrees rfl n
  · simp [ActiveAgrees, ResultCode.activeAfter]

theorem absorbContinue_activeAgrees (off n : Nat) {s : State} (h : s.asm.active = true) :
    ActiveAgrees (absorbContinue off n s) := by
  unfold absorbContinue
  split
  · exact finishUnit_activeAgrees (by rw [State.append_asm, h]; rfl) n
  · rfl

theorem absorbPayload_activeAgrees (s : State) (stuff : Nat) : ActiveAgrees (absorbPayload s stuff) := by
  simp only [absorbPayload]
  split
  · cases h : s.asm.active <;> simp [ActiveAgrees, ResultCode.activeAfter, h]
  · split
    · exact absorbStart_activeAgrees _ _ _ s
    · split
      · next hactive => exact absorbContinue_activeAgrees _ _ hactive
      · next hidle => simp [ActiveAgrees, ResultCode.activeAfter, hidle]

/-- ABSORB ends at its identifier filter, or its code tells the ACTIVE it leaves. -/
theorem absorbBody_cases (s : State) :
    absorbBody s = (s, { code := .unexpectedId, value := 0 }) ∨ ActiveAgrees (absorbBody s) := by
  unfold absorbBody
  split
  · exact .inl rfl
  · refine .inr ?_
    split
    · rfl
    · exact absorbPayload_activeAgrees _ _

/-- ABSORB reports no code of a failed TSPARSE or AFPARSE. -/
theorem absorbBody_code_ne_parse (s : State) :
    (absorbBody s).2.code ≠ .invalidSync ∧ (absorbBody s).2.code ≠ .invalidLength := by
  rcases absorbBody_cases s with h | h
  · simp [h]
  · constructor <;> intro hcode <;> simp [ActiveAgrees, ResultCode.activeAfter, hcode] at h

/-- A FRAME that changes the assembler ran its last stage: both parses succeeded. -/
theorem execFrame_asm {s t : State} (h : execFrame s = .next t) (hne : t.asm ≠ s.asm) :
    t.result.code ≠ .invalidSync ∧ t.result.code ≠ .invalidLength := by
  obtain ⟨hasm, hresult⟩ := complete_next h
  rcases frameBody_cases s with ⟨-, hf⟩ | ⟨-, -, hf⟩ | ⟨-, -, hf⟩ <;> rw [hf] at hasm hresult
  · exact absurd (hasm.trans (tsBody_asm s)) hne
  · exact absurd (hasm.trans ((afBody_asm _).trans (tsBody_asm s))) hne
  · rw [hresult]
    exact absorbBody_code_ne_parse _

/-- Every command but INIT, ABSORB and a FRAME past its parses keeps the assembler. -/
theorem exec_asm_writer {i : Instr} {s t : State} (h : exec i s = .next t) (hne : t.asm ≠ s.asm) :
    (∃ pid, i = .init pid) ∨ i = .absorb ∨
      (i = .frame ∧ t.result.code ≠ .invalidSync ∧ t.result.code ≠ .invalidLength) := by
  cases i with
  | init pid => exact .inl ⟨pid, rfl⟩
  | absorb => exact .inr (.inl rfl)
  | frame => exact .inr (.inr ⟨rfl, execFrame_asm h hne⟩)
  | nop => cases h; exact absurd rfl hne
  | tsparse => exact absurd ((complete_next h).1.trans (tsBody_asm s)) hne
  | afparse => exact absurd ((complete_next h).1.trans (afBody_asm s)) hne
  | afstuff => exact absurd ((complete_next h).1.trans (stuffBody_asm s)) hne
  | pesparse off => exact absurd (execPesparse_asm h) hne
  | clear mask => exact absurd (execClear_asm h) hne

/-- Among the steps, only a CMD write and the release of reset write the assembler. -/
theorem step_asm_writer {s t : State} (h : step s = .next t) (hne : t.asm ≠ s.asm) :
    (∃ w rest, Claims.CmdPending s w rest) ∨
      (s.inReset = true ∧ ∃ rest, s.hostQueue = .releaseReset :: rest ∧ t.asm = AsmRegs.zero) := by
  rcases step_cases h with ⟨-, rfl⟩ | ⟨_, _, _, -, -, -, rfl⟩ | ⟨w, rest, hr, hq, -⟩ | ⟨_, _, _, _, -, -, -, -, rfl⟩ |
    ⟨_, _, -, rfl⟩ | ⟨_, -, rfl⟩ | ⟨rest, hr, hq, rfl⟩
  · exact absurd rfl hne
  · exact absurd rfl hne
  · exact .inl ⟨w, rest, hr, hq⟩
  · exact absurd rfl hne
  · exact absurd rfl hne
  · exact absurd rfl hne
  · exact .inr ⟨hr, rest, hq, rfl⟩

/-- Settles O47: the commands by `exec_asm_writer`, the steps by `step_asm_writer`, CLEAR by its own frame lemma. -/
theorem assemblerWriters : Obligations.AssemblerWriters :=
  ⟨fun _ _ _ => exec_asm_writer, fun _ _ => step_asm_writer, fun _ _ _ => execClear_asm⟩

/-- Settles O48: ABSORB ends at its identifier filter, unchanged, or with a code that agrees with ACTIVE. -/
theorem absorbResultsAndStates : Obligations.AbsorbResultsAndStates := by
  intro s
  refine ⟨_, complete_eq (absorbBody s), ?_⟩
  rcases absorbBody_cases s with h | h
  · rw [h]
  · cases hcode : (absorbBody s).2.code <;> simp_all [ActiveAgrees, ResultCode.activeAfter]

end Sys2Proof.Machine
end

section
/-! SUPPORT. The host's accesses: which are served (20_memory.md R60), what a word of the FRAME and PESBUF windows holds
(R66, R67), and where a read gives 0 and a write is ignored (R75). -/

namespace Sys2Proof.Machine

open Sys2Proof.Claims

/-! ### Which accesses are served -/

theorem accessDefined_iff (a : Addr) (size : AccessSize) :
    accessDefined a size = true ↔ size = .word ∧ a.toNat % 4 = 0 := by
  simp [accessDefined]

theorem busAccess_refused {s : State} {a : Addr} {size : AccessSize} (hr : s.inReset = false)
    (hbad : ¬(size = .word ∧ a.toNat % 4 = 0)) (served : Out) :
    busAccess s a size served = .refused (.unsupportedAccess a) := by
  rw [← accessDefined_iff] at hbad
  simp [busAccess, hr, hbad]

/-- Every command answers a next state: all but NOP and an illegal PESPARSE end in `complete`. -/
theorem exec_completes (i : Instr) (s : State) : ∃ t, exec i s = .next t := by
  cases i with
  | pesparse off =>
    rcases execPesparse_cases off s with ⟨-, hrun⟩ | ⟨-, hrun⟩
    · exact ⟨_, hrun⟩
    · exact ⟨_, hrun⟩
  | nop | init _ | tsparse | afparse | afstuff | absorb | frame | clear _ => exact ⟨_, rfl⟩

theorem runCommand_completes (w : Word) (s : State) : ∃ t, runCommand w s = .next t := by
  unfold runCommand
  split
  · exact exec_completes _ s
  · exact ⟨_, rfl⟩

theorem writeWord_completes (s : State) (a : Nat) (w : Word) : ∃ t, writeWord s a w = .next t := by
  unfold writeWord
  split
  · exact runCommand_completes w s
  all_goals exact ⟨_, rfl⟩

/-- The word a defined read returns is read off the state before the step: the queue is no input of it. -/
theorem step_read_word {s : State} {a : Addr} {rest : List HostEvent} (hr : s.inReset = false) (ha : a.toNat % 4 = 0)
    (hq : s.hostQueue = .read a .word :: rest) :
    step s = .next { s with hostQueue := rest, busData := readWord s a.toNat } := by
  rw [step_read hr ha hq, readWord_queue s rest s.busData]

/-- Settles O10: `busAccess` refuses what is no aligned word; a read of one is served, and so is a write, since every
command completes. -/
theorem onlyAlignedWordsServed : Obligations.OnlyAlignedWordsServed := by
  intro s a size w rest hr hq
  constructor
  · intro hbad
    rcases hq with hq | hq <;> simp only [step, hq, serve]
    · exact busAccess_refused hr hbad _
    · exact busAccess_refused hr hbad _
  · rintro rfl ha
    rcases hq with hq | hq
    · exact ⟨_, step_read hr ha hq⟩
    · rw [step_write hr ha hq]
      exact writeWord_completes _ _ _

/-! ### The bytes of the two windows -/

theorem wordByte_toNat_byteOf (w : Word) (j : Nat) : (wordByte w j).toNat = byteOf w j := wordByte_toNat w j

/-- Byte `j` of a packed word is the `j`-th byte packed. -/
theorem byteOf_packWord (b : Nat → Byte) {j : Nat} (hj : j < 4) :
    byteOf (packWord (b 0) (b 1) (b 2) (b 3)) j = (b j).toNat := by
  have h0 := (b 0).isLt
  have h1 := (b 1).isLt
  have h2 := (b 2).isLt
  have h3 := (b 3).isLt
  rw [byteOf, packWord_toNat]
  interval_cases j <;> omega

theorem readWord_frameWord (s : State) {k : Nat} (hk : k < 47) : readWord s (0x400 + 4 * k) = readFrameWord s k := by
  simp only [readWord, placeAt_frameWord _ hk]

theorem writeWord_frameWord (s : State) (w : Word) {k : Nat} (hk : k < 47) :
    writeWord s (0x400 + 4 * k) w = .next (writeFrameWord s k w) := by
  simp only [writeWord, placeAt_frameWord _ hk]

theorem byteOf_readFrameWord (s : State) (k : Nat) {j : Nat} (hj : j < 4) :
    byteOf (readFrameWord s k) j = fb s.frame (4 * k + j) :=
  byteOf_packWord (fun j => s.frame.byte (4 * k + j)) hj

theorem writeFrameWord_byte_inside (s : State) (k : Nat) (w : Word) {j : Nat} (hj : j < 4) :
    (writeFrameWord s k w).frame.byte (4 * k + j) = wordByte w j := by
  simp only [writeFrameWord, FrameBuf.setByte_byte]
  interval_cases j <;> simp

/-- The frame bytes after a FRAME write: those of word `k` from the bus word, every other as before. -/
theorem writeFrameWord_byte (s : State) (k : Nat) (w : Word) (i : Nat) :
    (writeFrameWord s k w).frame.byte i = if i / 4 = k then wordByte w (i % 4) else s.frame.byte i := by
  split
  · next hword =>
    have hi : 4 * k + i % 4 = i := by omega
    simpa only [hi] using writeFrameWord_byte_inside s k w (j := i % 4) (by omega)
  · next hother =>
    simp only [writeFrameWord, FrameBuf.setByte_byte]
    rw [if_neg (by omega), if_neg (by omega), if_neg (by omega), if_neg (by omega)]

/-- A FRAME word reads back as it was written. -/
theorem readFrameWord_writeFrameWord (s : State) (k : Nat) (w : Word) :
    readFrameWord (writeFrameWord s k w) k = w := by
  have hfirst : (writeFrameWord s k w).frame.byte (4 * k) = wordByte w 0 :=
    writeFrameWord_byte_inside s k w (j := 0) (by decide)
  rw [readFrameWord, hfirst, writeFrameWord_byte_inside _ _ _ (by decide), writeFrameWord_byte_inside _ _ _ (by decide),
    writeFrameWord_byte_inside _ _ _ (by decide), packWord_wordByte]

/-- Settles O12: the step is `writeFrameWord` or a read of `readFrameWord`, whose bytes the lemmas above give. -/
theorem frameWindowWord : Obligations.FrameWindowWord := by
  intro s k a w rest hk ha hr
  have halign : a.toNat % 4 = 0 := by omega
  constructor
  · intro hq
    refine ⟨writeFrameWord { s with hostQueue := rest } k w, ?_, rfl, fun i => ?_, ?_⟩
    · rw [step_write hr halign hq, ha, writeWord_frameWord _ _ hk]
    · rw [fb, writeFrameWord_byte, apply_ite BitVec.toNat, wordByte_toNat_byteOf]
      rfl
    · rw [ha, readWord_frameWord _ hk, readFrameWord_writeFrameWord]
  · intro hq
    refine ⟨_, step_read_word hr halign hq, fun j hj => ?_⟩
    rw [ha, readWord_frameWord s hk, byteOf_readFrameWord s k hj]

theorem readWord_pesBufWord (s : State) {k : Nat} (hk : 4 * k < s.params.pesBufCap) :
    readWord s (0x100000 + 4 * k) = readPesBufWord s k := by
  simp only [readWord, placeAt_pesBufWord hk]

theorem byteOf_readPesBufWord (s : State) (k : Nat) {j : Nat} (hj : j < 4) :
    byteOf (readPesBufWord s k) j =
      if 4 * k + j < s.params.pesBufCap then (s.pesBuf.byte s.asm.bufLen.toNat (4 * k + j)).toNat else 0 := by
  rw [readPesBufWord]
  refine (byteOf_packWord (fun j => pesWindowByte s (4 * k + j)) hj).trans ?_
  exact apply_ite BitVec.toNat _ _ _

/-! ### Where a read gives 0 and where a write is ignored -/

theorem offset_of_placeAt_register {cap a : Nat} {r : Reg} (h : placeAt cap a = .register r) : r.offset = a := by
  unfold placeAt at h
  split_ifs at h
  split at h
  · next hfind =>
    cases h
    simpa using List.find?_some hfind
  · cases h

theorem frameWindow_of_placeAt_frameWord {cap a k : Nat} (h : placeAt cap a = .frameWord k) :
    0x400 ≤ a ∧ a ≤ 0x4BB := by
  unfold placeAt frameBase frameWords at h
  split_ifs at h with hframe
  · omega
  · split at h <;> cases h

/-- Only CMD and the FRAME window take writes (20_memory.md R75). -/
theorem writeWord_ignored (s : State) (w : Word) {a : Nat} (hcmd : a ≠ 0x000) (hframe : ¬(0x400 ≤ a ∧ a ≤ 0x4BB)) :
    writeWord s a w = .next s := by
  unfold writeWord
  split
  · next hplace => exact absurd (offset_of_placeAt_register hplace).symm hcmd
  · next hplace => exact absurd (frameWindow_of_placeAt_frameWord hplace) hframe
  all_goals rfl

/-- Settles O13: the read is of `readPesBufWord`, and the window takes no write. -/
theorem pesBufWindowWord : Obligations.PesBufWindowWord := by
  intro s k a w rest hk ha hr
  have halign : a.toNat % 4 = 0 := by omega
  constructor
  · intro hq
    refine ⟨_, step_read_word hr halign hq, fun j hj => ?_⟩
    rw [ha, readWord_pesBufWord s hk, byteOf_readPesBufWord s k hj]
  · intro hq
    rw [step_write hr halign hq, writeWord_ignored _ _ (by omega) (by omega)]

theorem Reg.offset_mem_registerOffsets (r : Reg) : r.offset ∈ registerOffsets := by
  cases r <;> decide

theorem placeAt_unmapped {cap a : Nat} (halign : a % 4 = 0) (h : Unmapped cap a) : placeAt cap a = .unmapped := by
  obtain ⟨hreg, hframe, hpes⟩ := h
  rcases placeAt_outside (cap := cap) (a := a) (by omega) (by omega) with ⟨r, -, rfl⟩ | ⟨hplace, -⟩
  · exact absurd r.offset_mem_registerOffsets hreg
  · exact hplace

theorem readWord_unmapped (s : State) {a : Nat} (halign : a % 4 = 0) (h : Unmapped s.params.pesBufCap a) :
    readWord s a = 0 := by
  simp only [readWord, placeAt_unmapped halign h]

theorem readWord_cmd (s : State) : readWord s 0x000 = 0 := by
  simp only [readWord, show placeAt s.params.pesBufCap 0x000 = .register .cmd from placeAt_register _ .cmd, Reg.read]

/-- Settles O14: neither the queue nor the word last read is an input of a read, so it repeats; the zeros and the ignored
writes are read off the address map. -/
theorem readsAndIgnoredWrites : Obligations.ReadsAndIgnoredWrites := by
  intro s a w rest hr halign
  constructor
  · intro hq
    refine ⟨readWord s a.toNat, step_read_word hr halign hq, ?_, ?_⟩
    · rintro (hun | hcmd)
      · exact readWord_unmapped s halign hun
      · rw [hcmd, readWord_cmd]
    · have hrepeat := step_read_word (rest := rest)
        (s := { s with hostQueue := .read a .word :: rest, busData := readWord s a.toNat }) hr halign rfl
      rwa [readWord_queue] at hrepeat
  · intro hq hcmd hframe
    rw [step_write hr halign hq, writeWord_ignored _ _ hcmd hframe]

end Sys2Proof.Machine
end

section
/-! SUPPORT. Which command each word decodes to (30_encoding.md R91), in the arithmetic of the claims, and that the outcome
of a word rests on the fields its command uses (R121). -/

namespace Sys2Proof.Machine

open Sys2Proof.Claims

/-! ### The fields and the legal words -/

theorem fieldOp_toNat_opOf (w : Word) : (fieldOp w).toNat = opOf w := fieldOp_toNat w

theorem fieldImm8_toNat_imm8Of (w : Word) : (fieldImm8 w).toNat = imm8Of w := fieldImm8_toNat w

theorem fieldImm8_eq_ofNat (w : Word) : fieldImm8 w = BitVec.ofNat 8 (imm8Of w) := by
  rw [← fieldImm8_toNat_imm8Of, BitVec.ofNat_toNat, BitVec.setWidth_eq]

theorem fieldPid13_eq_ofNat (w : Word) : fieldPid13 w = BitVec.ofNat 13 (pid13Of w) := by
  rw [pid13Of, ← fieldPid13_toNat, BitVec.ofNat_toNat, BitVec.setWidth_eq]

theorem reservedFields_iff (w : Word) : fieldRsv0 w ≠ 0 ∨ fieldRsv1 w ≠ 0 ↔ rsv0Of w ≠ 0 ∨ rsv1Of w ≠ 0 :=
  or_congr (not_congr (fieldRsv0_eq_zero w)) (not_congr (fieldRsv1_eq_zero w))

theorem not_illegalWord_iff (w : Word) :
    ¬IllegalWord w ↔ ¬(rsv0Of w ≠ 0 ∨ rsv1Of w ≠ 0) ∧ opOf w ≤ 8 ∧ (opOf w = 5 → imm8Of w ≤ 187) := by
  unfold IllegalWord
  omega

/-! ### Decoding -/

/-- The command R91 lists for the OP of a legal word; `decode_legal` ties it to the decoder. -/
def commandOf (w : Word) : Instr :=
  match opOf w with
  | 0 => .nop
  | 1 => .init (BitVec.ofNat 13 (pid13Of w))
  | 2 => .tsparse
  | 3 => .afparse
  | 4 => .afstuff
  | 5 => .pesparse (BitVec.ofNat 8 (imm8Of w))
  | 6 => .absorb
  | 7 => .frame
  | _ => .clear (BitVec.ofNat 8 (imm8Of w))

theorem decode_reservedBits {w : Word} (h : rsv0Of w ≠ 0 ∨ rsv1Of w ≠ 0) : decode w = .error .reservedBits :=
  if_pos ((reservedFields_iff w).2 h)

theorem decode_reservedOpcode {w : Word} (hrsv : ¬(rsv0Of w ≠ 0 ∨ rsv1Of w ≠ 0)) (hop : 9 ≤ opOf w) :
    decode w = .error (.reservedOpcode (fieldOp w)) := by
  rw [decode, if_neg (mt (reservedFields_iff w).1 hrsv), fieldOp_toNat_opOf]
  split
  case h_10 => rfl
  all_goals omega

theorem decode_offsetPastFrame {w : Word} (hrsv : ¬(rsv0Of w ≠ 0 ∨ rsv1Of w ≠ 0)) (hop : opOf w = 5)
    (hoff : 187 < imm8Of w) : decode w = .error (.offsetPastFrame (fieldImm8 w)) := by
  rw [decode, if_neg (mt (reservedFields_iff w).1 hrsv), fieldOp_toNat_opOf, hop]
  exact if_neg (by rw [fieldImm8_toNat_imm8Of]; omega)

theorem decode_illegal {w : Word} (h : IllegalWord w) : ∃ r, decode w = .error r := by
  by_cases hrsv : rsv0Of w ≠ 0 ∨ rsv1Of w ≠ 0
  · exact ⟨_, decode_reservedBits hrsv⟩
  · obtain hrsv0 | hrsv1 | hop | ⟨hop, hoff⟩ := h
    · exact absurd (.inl hrsv0) hrsv
    · exact absurd (.inr hrsv1) hrsv
    · exact ⟨_, decode_reservedOpcode hrsv hop⟩
    · exact ⟨_, decode_offsetPastFrame hrsv hop hoff⟩

theorem decodePesparse_inside {off : Byte} (h : off.toNat ≤ 187) : decodePesparse off = .ok (.pesparse off) := if_pos h

theorem decode_legal {w : Word} (h : ¬IllegalWord w) : decode w = .ok (commandOf w) := by
  obtain ⟨hrsv, hop, hoff⟩ := (not_illegalWord_iff w).1 h
  rw [decode, if_neg (mt (reservedFields_iff w).1 hrsv), fieldOp_toNat_opOf, commandOf, ← fieldImm8_eq_ofNat,
    ← fieldPid13_eq_ofNat]
  rw [← fieldImm8_toNat_imm8Of] at hoff
  generalize opOf w = op at hop hoff
  interval_cases op
  iterate 5 rfl
  · exact decodePesparse_inside (hoff rfl)
  all_goals rfl

theorem decode_error_iff (w : Word) : (∃ r, decode w = .error r) ↔ IllegalWord w := by
  refine ⟨fun ⟨r, hr⟩ => ?_, decode_illegal⟩
  by_contra hlegal
  rw [decode_legal hlegal] at hr
  cases hr

/-! ### Running a word -/

theorem runCommand_illegal {w : Word} (h : IllegalWord w) (s : State) : runCommand w s = .next (illegalCommand s) := by
  obtain ⟨r, hr⟩ := decode_illegal h
  rw [runCommand, hr]

theorem runCommand_legal {w : Word} (h : ¬IllegalWord w) (s : State) : runCommand w s = exec (commandOf w) s := by
  rw [runCommand, decode_legal h]

/-- Settles O2: the errors by `decode_error_iff`, an illegal word's run by `runCommand_illegal`, and the command of each OP
by `decode_legal`. -/
theorem decodeIsTotal : Obligations.DecodeIsTotal := by
  intro w s
  refine ⟨decode_error_iff w, fun h => runCommand_illegal h s, fun h => ?_⟩
  rw [decode_legal h]
  refine ⟨?_, ?_, ?_, ?_, ?_, ?_, ?_, ?_, ?_⟩ <;> intro hop <;> simp only [commandOf, hop]

/-! ### The fields a command does not use -/

/-- CLEAR reads bits 3:0 of its mask only (30_encoding.md R121). -/
theorem execClear_lowNibble {m m' : Byte} (h : m.toNat % 2 ^ 4 = m'.toNat % 2 ^ 4) (s : State) :
    execClear m s = execClear m' s := by
  have hbit : ∀ k < 4, m.getLsbD k = m'.getLsbD k := by
    intro k hk
    have hlow := congrArg (·.testBit k) h
    simp only [Nat.testBit_mod_two_pow, hk, decide_true, Bool.true_and, BitVec.testBit_toNat] at hlow
    exact hlow
  simp only [execClear, hbit 0 (by decide), hbit 1 (by decide), hbit 2 (by decide), hbit 3 (by decide)]

/-- A legal word's command has the outcome its OP and the operand it uses give. -/
theorem exec_commandOf_congr {w w' : Word} (hle : opOf w ≤ 8) (hop : opOf w = opOf w')
    (hpid : opOf w = 1 → pid13Of w = pid13Of w') (hoff : opOf w = 5 → imm8Of w = imm8Of w')
    (hmask : opOf w = 8 → imm8Of w % 16 = imm8Of w' % 16) (s : State) :
    exec (commandOf w) s = exec (commandOf w') s := by
  unfold commandOf
  rw [← hop]
  generalize opOf w = op at *
  interval_cases op
  · rfl
  · exact congrArg (fun pid => execInit (.ofNat 13 pid) s) (hpid rfl)
  iterate 3 rfl
  · exact congrArg (fun off => execPesparse (.ofNat 8 off) s) (hoff rfl)
  iterate 2 rfl
  · refine execClear_lowNibble ?_ s
    have hlow := hmask rfl
    simp only [BitVec.toNat_ofNat]
    omega

/-- Settles O4: an illegal word by `runCommand_illegal`; two legal ones by `exec_commandOf_congr`. -/
theorem unusedFieldsIgnored : Obligations.UnusedFieldsIgnored := by
  intro w w' s
  refine ⟨fun h => runCommand_illegal h s, fun h h' hop hpid hoff hmask => ?_⟩
  obtain ⟨-, hle, -⟩ := (not_illegalWord_iff w).1 h
  rw [runCommand_legal h, runCommand_legal h']
  exact exec_commandOf_congr hle hop hpid hoff hmask s

/-- Settles O8: every command ends in `complete`, in `execNop` or in `illegalCommand`, and so does every word. -/
theorem everyCommandCompletes : Obligations.EveryCommandCompletes :=
  ⟨exec_completes, runCommand_completes⟩

end Sys2Proof.Machine
end

section
/-! SUPPORT. TSPARSE: the machine's header slices are the fields of the 32-bit number of frame bytes 0 to 3
(30_encoding.md R92), and its body in the two cases of the sync byte (40_ts_header.md R141). -/

namespace Sys2Proof.Machine

open Sys2Proof.Claims

/-! ### The header as one number -/

theorem getLsbD_eq_bitOf {n : Nat} (b : BitVec n) (k : Nat) : b.getLsbD k = bitOf b.toNat k :=
  Nat.testBit_eq_decide_div_mod_eq

/-- The number of four frame bytes, most significant first (20_memory.md R76). -/
theorem beNat_four (f : FrameBuf) (a : Nat) :
    beNat f a 4 = fb f a * 2 ^ 24 + fb f (a + 1) * 2 ^ 16 + fb f (a + 2) * 2 ^ 8 + fb f (a + 3) := by
  simp only [beNat, Nat.add_zero]
  omega

/-- The slices TSPARSE takes out of frame bytes 0 to 3 are the fields of their 32-bit number: read as naturals, both
sides of each field are a quotient of the same bytes. -/
theorem tsFields_eq_tsRef (f : FrameBuf) : tsFields (f.byte 0) (f.byte 1) (f.byte 2) (f.byte 3) = tsRef f := by
  have h1 := (f.byte 1).isLt
  have h2 := (f.byte 2).isLt
  have h3 := (f.byte 3).isLt
  simp only [tsFields, tsRef, beNat_four, Nat.zero_add, getLsbD_eq_bitOf, bitOf, fb, TsRegs.mk.injEq, decide_eq_decide,
    ← BitVec.toNat_inj, toNat_append_eq, BitVec.extractLsb'_toNat, BitVec.toNat_ofNat, Nat.shiftRight_eq_div_pow]
  omega

/-! ### TSPARSE in its two cases -/

/-- The header decode reads inside the frame only: the port stays, and the sync byte chooses between the header's fields
and `INVALID_SYNC` (40_ts_header.md R141). -/
theorem FrameBuf.tsParse_apply (f : FrameBuf) (sync : Byte) (p : Port) :
    f.tsParse sync p =
      (if f.byte 0 ≠ sync then ({ TsRegs.zero with sync := f.byte 0 }, { code := .invalidSync, value := 0 })
        else (tsRef f, { code := .ok, value := 4 }), p) := by
  simp only [FrameBuf.tsParse, Reading.bind_apply, Reading.ite_apply, Reading.pure_apply,
    f.get_inside (show 0 < 188 by decide), f.get_inside (show 1 < 188 by decide), f.get_inside (show 2 < 188 by decide),
    f.get_inside (show 3 < 188 by decide), tsFields_eq_tsRef]
  split <;> rfl

theorem tsBody_sync {s : State} (h : s.frame.byte 0 = s.params.syncByte) :
    tsBody s = ({ s with ts := tsRef s.frame }, { code := .ok, value := 4 }) := by
  simp only [tsBody, FrameBuf.tsParse_apply, if_neg (not_not_intro h)]

theorem tsBody_badSync {s : State} (h : s.frame.byte 0 ≠ s.params.syncByte) :
    tsBody s =
      ({ s with ts := { TsRegs.zero with sync := s.frame.byte 0 } }, { code := .invalidSync, value := 0 }) := by
  simp only [tsBody, FrameBuf.tsParse_apply, if_pos h]

/-- Settles O19: TSPARSE completes its body, which `tsBody_sync` and `tsBody_badSync` give in the two cases of the sync
byte. -/
theorem tsparseDecodesHeader : Obligations.TsparseDecodesHeader := by
  intro s
  constructor
  · intro hsync
    exact congrArg complete (tsBody_sync hsync)
  · intro hbad
    exact congrArg complete (tsBody_badSync hbad)

end Sys2Proof.Machine
end

section
/-! SUPPORT. AFPARSE and AFSTUFF: each stage of the machine's walk as the closed formula of the claims for its sub-field
(41_adaptation_field.md R161 to R168), and the stuffing count as `stuffRef` (R172). -/

namespace Sys2Proof.Machine

open Sys2Proof.Claims

/-! ### Frame bytes as numbers -/

theorem byte_toNat (f : FrameBuf) (i : Nat) : (f.byte i).toNat = fb f i := rfl

theorem ofNat_fb (f : FrameBuf) (i : Nat) : BitVec.ofNat 8 (fb f i) = f.byte i := by
  rw [fb, BitVec.ofNat_toNat, BitVec.setWidth_eq]

theorem fb_eq_zero {f : FrameBuf} {i : Nat} : fb f i = 0 ↔ f.byte i = 0 := BitVec.toNat_inj (y := 0)

theorem fb_lt (f : FrameBuf) (i : Nat) : fb f i < 256 := (f.byte i).isLt

/-! ### The control value and the length bound -/

theorem afcHasField_iff (c : BitVec 2) : afcHasField c = true ↔ HasField c := by
  simp [afcHasField, HasField]

/-- Under a control value with a field, the length bound of R161 is the one of R169. -/
theorem tooLong_iff (f : FrameBuf) {c : BitVec 2} (hc : HasField c) :
    TooLong f c ↔ afMaxLen c < (f.byte 4).toNat := by
  rcases hc with rfl | rfl <;> simp [TooLong, afMaxLen, afMaxLenWithPayload, afMaxLenNoPayload, fb]

theorem hasField_of_tooLong {f : FrameBuf} {c : BitVec 2} (h : TooLong f c) : HasField c :=
  h.elim (fun h3 => .inr h3.1) (fun h2 => .inl h2.1)

theorem len_le_of_not_tooLong {f : FrameBuf} {c : BitVec 2} (hc : HasField c) (h : ¬TooLong f c) : fb f 4 ≤ 184 := by
  unfold TooLong at h
  rcases hc with rfl | rfl <;> simp at h <;> omega

/-! ### The clock fields as one number (30_encoding.md R97) -/

/-- The number of the six bytes of a clock field, most significant first (20_memory.md R76). -/
theorem clockNat_eq (f : FrameBuf) (o : Nat) :
    clockNat f o =
      fb f (4 + o) * 2 ^ 40 + fb f (4 + o + 1) * 2 ^ 32 + fb f (4 + o + 2) * 2 ^ 24 + fb f (4 + o + 3) * 2 ^ 16 +
        fb f (4 + o + 4) * 2 ^ 8 + fb f (4 + o + 5) := by
  simp only [clockNat, beNat, Nat.add_zero]
  omega

theorem baseNat_lt (f : FrameBuf) (o : Nat) : baseNat f o < 2 ^ 33 := by
  have h0 := fb_lt f (4 + o)
  have h1 := fb_lt f (4 + o + 1)
  have h2 := fb_lt f (4 + o + 2)
  have h3 := fb_lt f (4 + o + 3)
  have h4 := fb_lt f (4 + o + 4)
  have h5 := fb_lt f (4 + o + 5)
  rw [baseNat, clockNat_eq]
  omega

theorem extNat_lt (f : FrameBuf) (o : Nat) : extNat f o < 2 ^ 9 := Nat.mod_lt _ (by decide)

/-- The machine's BASE slices are a quotient of the 48-bit number, and its EXT slices a remainder of it. -/
theorem clockBase_eq (f : FrameBuf) (o : Nat) :
    clockBase (f.byte (4 + o)) (f.byte (4 + o + 1)) (f.byte (4 + o + 2)) (f.byte (4 + o + 3)) (f.byte (4 + o + 4)) =
      BitVec.ofNat 33 (baseNat f o) := by
  have h4 := (f.byte (4 + o + 4)).isLt
  have h5 := fb_lt f (4 + o + 5)
  apply BitVec.eq_of_toNat_eq
  rw [BitVec.toNat_ofNat, Nat.mod_eq_of_lt (baseNat_lt f o), baseNat, clockNat_eq]
  simp only [clockBase, toNat_append_eq, BitVec.extractLsb'_toNat, Nat.shiftRight_eq_div_pow, fb] at h5 ⊢
  omega

theorem clockExt_eq (f : FrameBuf) (o : Nat) :
    clockExt (f.byte (4 + o + 4)) (f.byte (4 + o + 5)) = BitVec.ofNat 9 (extNat f o) := by
  have h5 := fb_lt f (4 + o + 5)
  apply BitVec.eq_of_toNat_eq
  rw [BitVec.toNat_ofNat, Nat.mod_eq_of_lt (extNat_lt f o), extNat, clockNat_eq]
  simp only [clockExt, toNat_append_eq, BitVec.extractLsb'_toNat, Nat.shiftRight_eq_div_pow, fb] at h5 ⊢
  omega

/-- The slices `Clock` takes out of six bytes inside the frame are the BASE and EXT of their 48-bit number. -/
theorem FrameBuf.clock_eq (f : FrameBuf) {o : Nat} (h : o ≤ 178) (p : Port) :
    f.clock (afStart + o) p = ((BitVec.ofNat 33 (baseNat f o), BitVec.ofNat 9 (extNat f o)), p) := by
  rw [f.clock_inside (by unfold afStart; omega), ← clockBase_eq, ← clockExt_eq]
  rfl

/-- BASE and EXT as numbers keep their widths, so the combined clock is exact (41_adaptation_field.md R178). -/
theorem clockValue_ofNat {b e : Nat} (hb : b < 2 ^ 33) (he : e < 2 ^ 9) :
    clockValue (BitVec.ofNat 33 b) (BitVec.ofNat 9 e) = BitVec.ofNat 42 (b * 300 + e) := by
  simp only [clockValue, pcrMult, BitVec.toNat_ofNat, Nat.mod_eq_of_lt hb, Nat.mod_eq_of_lt he]

/-! ### The gates of the walk -/

@[simp] theorem fieldOf_true (w n : Nat) : fieldOf true w n = BitVec.ofNat w n := rfl

@[simp] theorem fieldOf_false (w n : Nat) : fieldOf false w n = 0 := rfl

theorem afBit_eq {f : FrameBuf} (hlen : 1 ≤ fb f 4) (k : Nat) : afBit f k = (f.byte 5).getLsbD k := by
  rw [afBit, decide_eq_true hlen, Bool.true_and, getLsbD_eq_bitOf, fb]

theorem afBit_of_empty {f : FrameBuf} (hlen : fb f 4 = 0) (k : Nat) : afBit f k = false := by
  simp [afBit, hlen]

/-- A sub-field of `n + 1` bytes fits when its last byte does (41_adaptation_field.md R162). -/
theorem succ_le_remaining (l off n : Nat) : n + 1 ≤ remaining l off ↔ off + n ≤ l := by
  unfold remaining
  omega

theorem offOpcr_le (f : FrameBuf) : offOpcr f ≤ 8 := by
  unfold offOpcr
  split <;> omega

theorem offSplice_le (f : FrameBuf) : offSplice f ≤ 14 := by
  have := offOpcr_le f
  unfold offSplice
  split <;> omega

theorem offPriv_le (f : FrameBuf) : offPriv f ≤ 15 := by
  have := offSplice_le f
  unfold offPriv
  split <;> omega

/-! ### The stages of the walk -/

/-- The PRIV stage does nothing when its gate is closed (41_adaptation_field.md R166). -/
theorem takePriv_closed {f : FrameBuf} {l : Nat} {w : AfRegs × Nat}
    (h : ¬(flagPriv w.1.flags = true ∧ 1 ≤ remaining l w.2)) (p : Port) : f.takePriv l w p = (w, p) := by
  rw [FrameBuf.takePriv, Reading.ite_apply, if_neg h]
  rfl

/-- Past its gate the PRIV stage reads its length byte, and consumes what fits (41_adaptation_field.md R166). -/
theorem takePriv_read {f : FrameBuf} {l : Nat} {w : AfRegs × Nat} {p q : Port} {n : Byte}
    (h : flagPriv w.1.flags = true ∧ 1 ≤ remaining l w.2) (hget : f.get (afStart + w.2) p = (n, q)) :
    f.takePriv l w p =
      (if 1 + n.toNat ≤ remaining l w.2 then ({ w.1 with privLen := n }, w.2 + 1 + n.toNat) else w, q) := by
  rw [FrameBuf.takePriv, Reading.ite_apply, if_pos h, Reading.bind_apply, hget, Reading.ite_apply]
  split <;> rfl

/-- The extension stage does nothing when its gate is closed (41_adaptation_field.md R167). -/
theorem takeExt_closed {f : FrameBuf} {l : Nat} {w : AfRegs × Nat}
    (h : ¬(flagExt w.1.flags = true ∧ 1 ≤ remaining l w.2)) (p : Port) : f.takeExt l w p = (w, p) := by
  rw [FrameBuf.takeExt, Reading.ite_apply, if_neg h]
  rfl

/-- Past its gate the extension stage reads its length byte, and consumes what fits (41_adaptation_field.md R167). -/
theorem takeExt_read {f : FrameBuf} {l : Nat} {w : AfRegs × Nat} {p q : Port} {n : Byte}
    (h : flagExt w.1.flags = true ∧ 1 ≤ remaining l w.2) (hget : f.get (afStart + w.2) p = (n, q)) :
    f.takeExt l w p =
      (if 1 + n.toNat ≤ remaining l w.2 then ({ w.1 with extLen := n }, w.2 + 1 + n.toNat) else w, q) := by
  rw [FrameBuf.takeExt, Reading.ite_apply, if_pos h, Reading.bind_apply, hget, Reading.ite_apply]
  split <;> rfl

/-- The AF set the walk starts from, at offset 2. -/
def afWithFlags (f : FrameBuf) (c : BitVec 2) : AfRegs :=
  { AfRegs.zero with ctrl := c, len := f.byte 4, flags := f.byte 5 }

/-- The AF set after the PCR stage, at offset `offOpcr f`. -/
def afWithPcr (f : FrameBuf) (c : BitVec 2) : AfRegs :=
  { afWithFlags f c with
    pcrBase := fieldOf (pcrFits f) 33 (baseNat f 2)
    pcrExt := fieldOf (pcrFits f) 9 (extNat f 2)
    pcr := fieldOf (pcrFits f) 42 (baseNat f 2 * 300 + extNat f 2) }

/-- The AF set after the OPCR stage, at offset `offSplice f`. -/
def afWithOpcr (f : FrameBuf) (c : BitVec 2) : AfRegs :=
  { afWithPcr f c with
    opcrBase := fieldOf (opcrFits f) 33 (baseNat f (offOpcr f))
    opcrExt := fieldOf (opcrFits f) 9 (extNat f (offOpcr f))
    opcr := fieldOf (opcrFits f) 42 (baseNat f (offOpcr f) * 300 + extNat f (offOpcr f)) }

/-- The AF set after the splice stage, at offset `offPriv f`. -/
def afWithSplice (f : FrameBuf) (c : BitVec 2) : AfRegs :=
  { afWithOpcr f c with splice := fieldOf (spliceFits f) 8 (fb f (4 + offSplice f)) }

/-- The AF set after the PRIV stage, at offset `offExt f`. -/
def afWithPriv (f : FrameBuf) (c : BitVec 2) : AfRegs :=
  { afWithSplice f c with privLen := fieldOf (privFits f) 8 (fb f (4 + offPriv f)) }

@[simp] theorem afWithFlags_flags (f : FrameBuf) (c : BitVec 2) : (afWithFlags f c).flags = f.byte 5 := rfl
@[simp] theorem afWithPcr_flags (f : FrameBuf) (c : BitVec 2) : (afWithPcr f c).flags = f.byte 5 := rfl
@[simp] theorem afWithOpcr_flags (f : FrameBuf) (c : BitVec 2) : (afWithOpcr f c).flags = f.byte 5 := rfl
@[simp] theorem afWithSplice_flags (f : FrameBuf) (c : BitVec 2) : (afWithSplice f c).flags = f.byte 5 := rfl

theorem afWithPcr_skipped {f : FrameBuf} (c : BitVec 2) (h : pcrFits f = false) : afWithPcr f c = afWithFlags f c := by
  rw [afWithPcr, h]
  rfl

theorem afWithOpcr_skipped {f : FrameBuf} (c : BitVec 2) (h : opcrFits f = false) : afWithOpcr f c = afWithPcr f c := by
  rw [afWithOpcr, h]
  rfl

theorem afWithSplice_skipped {f : FrameBuf} (c : BitVec 2) (h : spliceFits f = false) :
    afWithSplice f c = afWithOpcr f c := by
  rw [afWithSplice, h]
  rfl

theorem afWithPriv_skipped {f : FrameBuf} (c : BitVec 2) (h : privFits f = false) :
    afWithPriv f c = afWithSplice f c := by
  rw [afWithPriv, h]
  rfl

section
variable {f : FrameBuf} (hlen : 1 ≤ fb f 4)
include hlen

/-- The gates of R163 to R167 on the machine's side and on the claims'. -/
theorem pcrFits_iff : flagPcr (f.byte 5) = true ∧ 6 ≤ remaining (fb f 4) 2 ↔ pcrFits f = true := by
  simp [pcrFits, afBit_eq hlen, succ_le_remaining, flagPcr]

theorem opcrFits_iff :
    flagOpcr (f.byte 5) = true ∧ 6 ≤ remaining (fb f 4) (offOpcr f) ↔ opcrFits f = true := by
  simp [opcrFits, afBit_eq hlen, succ_le_remaining, flagOpcr]

theorem spliceFits_iff :
    flagSplice (f.byte 5) = true ∧ 1 ≤ remaining (fb f 4) (offSplice f) ↔ spliceFits f = true := by
  simp [spliceFits, afBit_eq hlen, succ_le_remaining _ _ 0, flagSplice]

variable (c : BitVec 2) (p : Port)

/-- Each stage of the walk takes the AF set and the offset before it to those after it: it consumes its sub-field exactly
when the claims say that it fits. -/
theorem takePcr_eq : f.takePcr (fb f 4) (afWithFlags f c, 2) p = ((afWithPcr f c, offOpcr f), p) := by
  rw [FrameBuf.takePcr, Reading.ite_apply]
  simp only [afWithFlags_flags, pcrFits_iff hlen]
  cases hfit : pcrFits f
  · simp [Reading.pure_apply, afWithPcr_skipped c hfit, offOpcr, hfit]
  · simp [Reading.map_apply, f.clock_eq, afWithPcr, offOpcr, hfit, clockValue_ofNat (baseNat_lt _ _) (extNat_lt _ _)]

theorem takeOpcr_eq : f.takeOpcr (fb f 4) (afWithPcr f c, offOpcr f) p = ((afWithOpcr f c, offSplice f), p) := by
  have hoff := offOpcr_le f
  rw [FrameBuf.takeOpcr, Reading.ite_apply]
  simp only [afWithPcr_flags, opcrFits_iff hlen]
  cases hfit : opcrFits f
  · simp [Reading.pure_apply, afWithOpcr_skipped c hfit, offSplice, hfit]
  · simp [Reading.map_apply, f.clock_eq (show offOpcr f ≤ 178 by omega), afWithOpcr, offSplice, hfit,
      clockValue_ofNat (baseNat_lt _ _) (extNat_lt _ _)]

theorem takeSplice_eq :
    f.takeSplice (fb f 4) (afWithOpcr f c, offSplice f) p = ((afWithSplice f c, offPriv f), p) := by
  have hoff := offSplice_le f
  rw [FrameBuf.takeSplice, Reading.ite_apply]
  simp only [afWithOpcr_flags, spliceFits_iff hlen]
  cases hfit : spliceFits f
  · simp [Reading.pure_apply, afWithSplice_skipped c hfit, offPriv, hfit]
  · simp [Reading.map_apply, f.get_inside (show 4 + offSplice f < 188 by omega), afWithSplice, offPriv, hfit,
      afStart, fb]

theorem privFits_iff :
    (flagPriv (f.byte 5) = true ∧ 1 ≤ remaining (fb f 4) (offPriv f)) ∧
        1 + fb f (4 + offPriv f) ≤ remaining (fb f 4) (offPriv f) ↔ privFits f = true := by
  simp only [privFits, afBit_eq hlen, flagPriv, Bool.and_eq_true, decide_eq_true_eq, and_assoc]
  exact and_congr_right fun _ => by unfold remaining; omega

theorem takePriv_eq :
    f.takePriv (fb f 4) (afWithSplice f c, offPriv f) p = ((afWithPriv f c, offExt f), p) := by
  have hoff := offPriv_le f
  have hfits := privFits_iff hlen
  by_cases hgate : flagPriv (f.byte 5) = true ∧ 1 ≤ remaining (fb f 4) (offPriv f)
  · have hroom := (and_iff_right hgate).symm.trans hfits
    rw [takePriv_read hgate (f.get_inside (show 4 + offPriv f < 188 by omega) p)]
    simp only [byte_toNat, hroom]
    cases hfit : privFits f
    · simp [afWithPriv_skipped c hfit, offExt, hfit]
    · simp [afWithPriv, offExt, hfit, ofNat_fb, Nat.add_assoc]
  · have hfit : privFits f = false := by simpa using mt hfits.2 fun h => hgate h.1
    rw [takePriv_closed hgate]
    simp [afWithPriv_skipped c hfit, offExt, hfit]

theorem extFits_iff :
    (flagExt (f.byte 5) = true ∧ 1 ≤ remaining (fb f 4) (offExt f)) ∧
        1 + fb f (4 + offExt f) ≤ remaining (fb f 4) (offExt f) ↔ extFits f = true := by
  simp only [extFits, afBit_eq hlen, flagExt, Bool.and_eq_true, decide_eq_true_eq, and_assoc]
  exact and_congr_right fun _ => by unfold remaining; omega

theorem afFieldRef_eq :
    afFieldRef f c = { afWithPriv f c with extLen := fieldOf (extFits f) 8 (fb f (4 + offExt f)) } := by
  rw [afFieldRef, if_neg (by omega)]
  rfl

theorem afFieldRef_skipped (h : extFits f = false) : afFieldRef f c = afWithPriv f c := by
  rw [afFieldRef_eq hlen, h]
  rfl

theorem takeExt_unread (hgate : ¬(flagExt (f.byte 5) = true ∧ 1 ≤ remaining (fb f 4) (offExt f))) :
    f.takeExt (fb f 4) (afWithPriv f c, offExt f) p = ((afFieldRef f c, offExt f), p) := by
  have hfit : extFits f = false := by simpa using mt (extFits_iff hlen).2 fun h => hgate h.1
  rw [takeExt_closed hgate, afFieldRef_skipped hlen c hfit]

theorem takeExt_inside (hgate : flagExt (f.byte 5) = true ∧ 1 ≤ remaining (fb f 4) (offExt f))
    (hin : offExt f < 184) :
    ∃ off, f.takeExt (fb f 4) (afWithPriv f c, offExt f) p = ((afFieldRef f c, off), p) := by
  have hroom := (and_iff_right hgate).symm.trans (extFits_iff hlen)
  rw [takeExt_read hgate (f.get_inside (show 4 + offExt f < 188 by omega) p)]
  simp only [byte_toNat, hroom]
  cases hfit : extFits f
  · exact ⟨_, by rw [afFieldRef_skipped hlen c hfit]; rfl⟩
  · exact ⟨_, by rw [afFieldRef_eq hlen, hfit, fieldOf_true, ofNat_fb]; rfl⟩

/-- The one draw (41_adaptation_field.md R168): at frame index 188 the field has one byte left, so an extension length
that fits is 0, and the AF set does not depend on the byte drawn. -/
theorem takeExt_drawn (hgate : flagExt (f.byte 5) = true ∧ 1 ≤ remaining (fb f 4) (offExt f))
    (hend : fb f 4 = 184 ∧ offExt f = 184) :
    ∃ off, f.takeExt (fb f 4) (afWithPriv f c, offExt f) p =
      ((afFieldRef f c, off), { oob := true, draws := p.draws + 1 }) := by
  obtain ⟨hmax, hoff⟩ := hend
  have hleft : remaining (fb f 4) (offExt f) = 1 := by rw [hmax, hoff]; rfl
  have hroom := (and_iff_right hgate).symm.trans (extFits_iff hlen)
  have hzero : fieldOf (extFits f) 8 (fb f (4 + offExt f)) = 0 := by
    cases hfit : extFits f
    · rfl
    · rw [show fb f (4 + offExt f) = 0 by have := hroom.2 hfit; omega]; rfl
  rw [takeExt_read hgate (f.get_outside (show 188 ≤ 4 + offExt f by omega) p), afFieldRef_eq hlen, hzero]
  dsimp only
  split
  · next hfit =>
    have hdrawn : (Config.freeByte p.draws).toNat = 0 := by omega
    exact ⟨_, by rw [BitVec.toNat_inj (y := 0) |>.1 hdrawn]⟩
  · exact ⟨_, rfl⟩

/-- The extension stage: unread, read inside the frame, or drawn. -/
theorem takeExt_eq (hmax : fb f 4 ≤ 184) :
    ∃ off, f.takeExt (fb f 4) (afWithPriv f c, offExt f) p = ((afFieldRef f c, off), afPortRef f p) := by
  have hbit : afBit f 0 = flagExt (f.byte 5) := afBit_eq hlen 0
  have hone : 1 ≤ remaining (fb f 4) (offExt f) ↔ offExt f ≤ fb f 4 := succ_le_remaining _ _ 0
  by_cases hgate : flagExt (f.byte 5) = true ∧ 1 ≤ remaining (fb f 4) (offExt f)
  · by_cases hin : offExt f < 184
    · rw [afPortRef, if_neg (by omega)]
      exact takeExt_inside hlen c p hgate hin
    · have hend : fb f 4 = 184 ∧ offExt f = 184 := by omega
      rw [afPortRef, if_pos ⟨hbit.trans hgate.1, hend⟩]
      exact takeExt_drawn hlen c p hgate hend
  · rw [afPortRef, if_neg fun h => hgate ⟨hbit.symm.trans h.1, by omega⟩]
    exact ⟨_, takeExt_unread hlen c p hgate⟩

/-- The whole walk, stage by stage (41_adaptation_field.md R161). -/
theorem afWalk_eq (hmax : fb f 4 ≤ 184) :
    ∃ off, f.afWalk (fb f 4) (afWithFlags f c, 2) p = ((afFieldRef f c, off), afPortRef f p) := by
  simp only [FrameBuf.afWalk, Reading.bind_apply, takePcr_eq hlen, takeOpcr_eq hlen, takeSplice_eq hlen,
    takePriv_eq hlen]
  exact takeExt_eq hlen c p hmax

end

/-! ### AFPARSE -/

theorem get_afStart (f : FrameBuf) (p : Port) : f.get afStart p = (f.byte 4, p) := f.get_inside (by decide) p

theorem afParse_noField (f : FrameBuf) {c : BitVec 2} (hc : ¬HasField c) (p : Port) :
    f.afParse c p = (({ AfRegs.zero with ctrl := c }, { code := .ok, value := 0 }), p) := by
  have hnone : afcHasField c = false := by simpa using mt (afcHasField_iff c).1 hc
  rw [FrameBuf.afParse, hnone]
  rfl

theorem afParse_tooLong {f : FrameBuf} {c : BitVec 2} (h : TooLong f c) (p : Port) :
    f.afParse c p = (({ AfRegs.zero with ctrl := c }, { code := .invalidLength, value := 0 }), p) := by
  have hc := hasField_of_tooLong h
  rw [FrameBuf.afParse, (afcHasField_iff c).2 hc, Reading.ite_apply, if_neg (by decide), Reading.bind_apply,
    get_afStart, Reading.ite_apply, if_pos ((tooLong_iff f hc).1 h)]
  rfl

/-- The AF set of a field whose length byte is 0: no flags byte is read. -/
theorem afFieldRef_of_empty {f : FrameBuf} (h : fb f 4 = 0) (c : BitVec 2) :
    afFieldRef f c = { AfRegs.zero with ctrl := c, len := f.byte 4 } := by
  simp [afFieldRef, h, pcrFits, opcrFits, spliceFits, privFits, extFits, afBit_of_empty h, AfRegs.zero]

theorem afParse_field {f : FrameBuf} {c : BitVec 2} (hc : HasField c) (h : ¬TooLong f c) (p : Port) :
    f.afParse c p = ((afFieldRef f c, res .ok (fb f 4 + 1)), afPortRef f p) := by
  rw [FrameBuf.afParse, (afcHasField_iff c).2 hc, Reading.ite_apply, if_neg (by decide), Reading.bind_apply,
    get_afStart, Reading.ite_apply, if_neg (mt (tooLong_iff f hc).2 h), Reading.ite_apply]
  by_cases hempty : fb f 4 = 0
  · have hport : afPortRef f p = p := if_neg (by rw [hempty]; omega)
    rw [hport, afFieldRef_of_empty hempty]
    exact if_pos (fb_eq_zero.1 hempty)
  · obtain ⟨off, hwalk⟩ := afWalk_eq (by omega) c p (len_le_of_not_tooLong hc h)
    refine (if_neg (mt fb_eq_zero.2 hempty)).trans ?_
    rw [Reading.bind_apply, f.get_inside (by decide), Reading.bind_apply]
    exact congrArg (fun x : (AfRegs × Nat) × Port => ((x.1.1, res .ok (fb f 4 + 1)), x.2)) hwalk

theorem exec_afparse_of {s : State} {a : AfRegs} {r : Result} {q : Port}
    (h : s.frame.afParse s.ts.afc s.port = ((a, r), q)) :
    exec .afparse s = .next { s with af := a, port := q, result := r } := by
  have hbody : afBody s = ({ s with af := a, port := q }, r) := by simp only [afBody, h]
  exact congrArg complete hbody

theorem exec_afparse_noField {s : State} (hc : ¬HasField s.ts.afc) :
    exec .afparse s = .next { s with af := { AfRegs.zero with ctrl := s.ts.afc }, result := ⟨.ok, 0⟩ } :=
  exec_afparse_of (afParse_noField _ hc _)

theorem exec_afparse_tooLong {s : State} (h : TooLong s.frame s.ts.afc) :
    exec .afparse s = .next { s with af := { AfRegs.zero with ctrl := s.ts.afc }, result := ⟨.invalidLength, 0⟩ } :=
  exec_afparse_of (afParse_tooLong h _)

theorem exec_afparse_field {s : State} (hc : HasField s.ts.afc) (h : ¬TooLong s.frame s.ts.afc) :
    exec .afparse s =
      .next
        { s with
          af := afFieldRef s.frame s.ts.afc
          port := afPortRef s.frame s.port
          result := res .ok (fb s.frame 4 + 1) } :=
  exec_afparse_of (afParse_field hc h _)

/-- Settles O21: the three paths of AFPARSE, the field's by the stages of the walk. -/
theorem afparseWalksTheField : Obligations.AfparseWalksTheField :=
  fun _ => ⟨exec_afparse_noField, exec_afparse_tooLong, exec_afparse_field⟩

/-- Settles O20: the control value and the length bound choose one of AFPARSE's three paths. -/
theorem afparseResultCodes : Obligations.AfparseResultCodes := by
  intro s
  by_cases hc : HasField s.ts.afc
  · have hno : ¬(s.ts.afc = 0 ∨ s.ts.afc = 1) := by rcases hc with hc | hc <;> rw [hc] <;> decide
    by_cases hlong : TooLong s.frame s.ts.afc
    · exact ⟨_, exec_afparse_tooLong hlong, fun h => absurd h hno, fun _ h => absurd hlong h,
        fun _ => ⟨rfl, rfl⟩⟩
    · exact ⟨_, exec_afparse_field hc hlong, fun h => absurd h hno, fun _ _ => rfl, fun h => absurd h hlong⟩
  · exact ⟨_, exec_afparse_noField hc, fun _ => rfl, fun h => absurd h hc,
      fun h => absurd (hasField_of_tooLong h) hc⟩

/-! ### AFSTUFF -/

theorem stuffFixed_eq (a : AfRegs) : stuffFixed a.flags = (1 + fixedSize a, 2 + fixedSize a) := by
  simp only [stuffFixed, fixedSize, flagPcr, flagOpcr, flagSplice, getLsbD_eq_bitOf]

theorem fixedSize_le (a : AfRegs) : fixedSize a ≤ 13 := by
  unfold fixedSize
  dsimp only
  split_ifs <;> omega

/-- The PRIV sub-field in the count: its length byte stands inside the frame. -/
theorem stuffPrefixed_priv (f : FrameBuf) (a : AfRegs) (p : Port) :
    f.stuffPrefixed (flagPriv a.flags) (stuffFixed a.flags) p =
      ((1 + fixedSize a + privSize f a, 2 + fixedSize a + privSize f a), p) := by
  have hfixed := fixedSize_le a
  have hflag : flagPriv a.flags = bitOf a.flags.toNat 1 := getLsbD_eq_bitOf _ _
  have hindex : afStart + (2 + fixedSize a) = 6 + fixedSize a := by
    unfold afStart
    omega
  rw [stuffFixed_eq, FrameBuf.stuffPrefixed, Reading.ite_apply, hflag, privSize]
  split
  · rw [Reading.bind_apply, hindex, f.get_inside (by omega), Reading.pure_apply]
    simp only [byte_toNat, Nat.add_assoc]
  · rfl

/-- The extension of the count: its length byte stands at `extIndex`, past the frame where that is 188 or more. -/
theorem stuffPrefixed_ext (f : FrameBuf) (a : AfRegs) (p : Port) :
    f.stuffPrefixed (flagExt a.flags) (1 + fixedSize a + privSize f a, 2 + fixedSize a + privSize f a) p =
      ((1 + fixedSize a + privSize f a + extSize f a p.draws, 2 + fixedSize a + privSize f a + extSize f a p.draws),
        if bitOf a.flags.toNat 0 ∧ 188 ≤ extIndex f a then { oob := true, draws := p.draws + 1 } else p) := by
  have hflag : flagExt a.flags = bitOf a.flags.toNat 0 := getLsbD_eq_bitOf _ _
  have hindex : afStart + (2 + fixedSize a + privSize f a) = extIndex f a := by
    unfold afStart extIndex
    omega
  rw [FrameBuf.stuffPrefixed, Reading.ite_apply, hflag, extSize]
  cases bitOf a.flags.toNat 0
  · rfl
  · rw [if_pos rfl, Reading.bind_apply, hindex]
    by_cases hin : extIndex f a < 188
    · simp [f.get_inside hin, hin, Nat.not_le.2 hin, Reading.pure_apply, Nat.add_assoc, byte_toNat]
    · simp [f.get_outside (Nat.not_lt.1 hin), hin, Nat.not_lt.1 hin, Reading.pure_apply, Nat.add_assoc]

theorem walks_iff (a : AfRegs) : Walks a ↔ ¬(!afcHasField a.ctrl || a.len == 0) = true := by
  simp [Walks, ← afcHasField_iff]

theorem stuffing_eq (f : FrameBuf) (a : AfRegs) (p : Port) :
    f.stuffing a p = (stuffRef f a p.draws, stuffPortRef f a p) := by
  rw [FrameBuf.stuffing, Reading.ite_apply, stuffRef, stuffPortRef]
  by_cases hwalks : Walks a
  · rw [if_neg ((walks_iff a).1 hwalks), Reading.bind_apply, stuffPrefixed_priv, Reading.bind_apply, stuffPrefixed_ext,
      if_pos hwalks]
    simp only [Reading.pure_apply, hwalks, true_and]
  · rw [if_pos (not_not.1 (mt (walks_iff a).2 hwalks)), if_neg hwalks, if_neg fun h => hwalks h.1]
    rfl

theorem stuffRef_le_len (f : FrameBuf) (a : AfRegs) (d : Nat) : stuffRef f a d ≤ a.len.toNat := by
  unfold stuffRef
  split <;> omega

theorem exec_afstuff (s : State) :
    exec .afstuff s =
      .next
        { s with
          af := { s.af with stuff := BitVec.ofNat 8 (stuffRef s.frame s.af s.port.draws) }
          port := stuffPortRef s.frame s.af s.port
          result := res .ok (stuffRef s.frame s.af s.port.draws) } := by
  have hbody : stuffBody s =
      ({ s with
          af := { s.af with stuff := BitVec.ofNat 8 (stuffRef s.frame s.af s.port.draws) }
          port := stuffPortRef s.frame s.af s.port }, res .ok (stuffRef s.frame s.af s.port.draws)) := by
    simp only [stuffBody, stuffing_eq, res]
  exact congrArg complete hbody

/-- Settles O22: the count of `Stuff()` and its port are the closed formulas (`stuffing_eq`). -/
theorem afstuffCountsUnusedBytes : Obligations.AfstuffCountsUnusedBytes :=
  fun s => ⟨stuffRef_le_len _ _ _, exec_afstuff s⟩

/-! ### AFSTUFF after AFPARSE -/

theorem walks_afFieldRef {f : FrameBuf} {c : BitVec 2} (hc : HasField c) (hlen : 1 ≤ fb f 4) :
    Walks (afFieldRef f c) :=
  ⟨hc, mt fb_eq_zero.2 (by omega)⟩

theorem afFieldRef_len (f : FrameBuf) (c : BitVec 2) : (afFieldRef f c).len.toNat = fb f 4 := rfl

theorem afFieldRef_flags {f : FrameBuf} (c : BitVec 2) (hlen : 1 ≤ fb f 4) :
    (afFieldRef f c).flags.toNat = fb f 5 := by
  rw [afFieldRef, if_neg (by omega), byte_toNat]

/-- With PRIV_F and EXT_F clear, the count reads no byte of the frame. -/
theorem stuffRef_unprefixed {f : FrameBuf} {c : BitVec 2} (hc : HasField c) (hlen : 1 ≤ fb f 4) (d : Nat)
    (hpriv : bitOf (fb f 5) 1 = false) (hext : bitOf (fb f 5) 0 = false) :
    stuffRef f (afFieldRef f c) d = fb f 4 - (1 + fixedSize (afFieldRef f c)) := by
  rw [stuffRef, if_pos (walks_afFieldRef hc hlen)]
  simp [privSize, extSize, afFieldRef_len, afFieldRef_flags c hlen, hpriv, hext]

/-- AFPARSE of a field within its bound, then AFSTUFF, which counts the field's stuffing bytes. -/
theorem afparse_afstuff {s : State} (hc : HasField s.ts.afc) (hfit : ¬TooLong s.frame s.ts.afc) :
    ∃ t u, exec .afparse s = .next t ∧ t.af = afFieldRef s.frame s.ts.afc ∧ exec .afstuff t = .next u ∧
      u.result = res .ok (stuffRef s.frame (afFieldRef s.frame s.ts.afc) (afPortRef s.frame s.port).draws) :=
  ⟨_, _, exec_afparse_field hc hfit, rfl, exec_afstuff _, rfl⟩

/-- The PCR of a field that has one, exact in its 42 bits (41_adaptation_field.md R178). -/
theorem afFieldRef_pcr_toNat {f : FrameBuf} (c : BitVec 2) (hpcr : pcrFits f = true) :
    (afFieldRef f c).pcr.toNat = baseNat f 2 * 300 + extNat f 2 := by
  have hbase := baseNat_lt f 2
  have hext := extNat_lt f 2
  simp only [afFieldRef, hpcr, fieldOf_true, BitVec.toNat_ofNat]
  omega

/-- Settles O24: AFPARSE's AF set is `afFieldRef`; a FLAGS byte of 0x10 or 0 flags no length-prefixed sub-field, so
the count is LEN less the flags byte and the PCR flagged. -/
theorem sourceStuffingProperties : Obligations.SourceStuffingProperties := by
  constructor
  · rintro s base ext hafc hlen hflags rfl rfl
    have hc : HasField s.ts.afc := .inr hafc
    have hone : 1 ≤ fb s.frame 4 := by omega
    have hpcr : pcrFits s.frame = true := by simp [pcrFits, afBit, hlen, hflags, bitOf]
    have hsize : fixedSize (afFieldRef s.frame s.ts.afc) = 6 := by
      simp [fixedSize, afFieldRef_flags _ hone, hflags, bitOf]
    obtain ⟨t, u, hparse, haf, hstuff, hresult⟩ := afparse_afstuff hc (by unfold TooLong; omega)
    refine ⟨t, u, hparse, haf ▸ afFieldRef_pcr_toNat _ hpcr, hstuff, ?_⟩
    rw [hresult, stuffRef_unprefixed hc hone _ (by rw [hflags]; rfl) (by rw [hflags]; rfl), hsize, hlen]
    rfl
  · intro s hc hfit hlen hflags
    have hsize : fixedSize (afFieldRef s.frame s.ts.afc) = 0 := by
      simp [fixedSize, afFieldRef_flags _ hlen, hflags, bitOf]
    obtain ⟨t, u, hparse, -, hstuff, hresult⟩ := afparse_afstuff hc hfit
    refine ⟨t, u, hparse, hstuff, ?_⟩
    rw [hresult, stuffRef_unprefixed hc hlen _ (by rw [hflags]; rfl) (by rw [hflags]; rfl), hsize]

end Sys2Proof.Machine
end

section
/-! SUPPORT. PESPARSE: reading upwards from inside the frame gives the bytes and the port of the claims, so
`PesParse(P)` is the closed formulas `pesRef` and `pesReads` (42_pes_header.md R201 to R209), and the stamp round trip (R215). -/

namespace Sys2Proof.Machine

open Sys2Proof.Claims

/-! ### Reading upwards -/

theorem portAfter_inside (q : Port) {e : Nat} (h : e ≤ 188) : portAfter q e = q := if_pos h

/-- The read of the byte `k` after `p`, every byte from the frame's end up to it having been drawn
(20_memory.md R70). -/
theorem FrameBuf.get_upward (f : FrameBuf) (q : Port) (p k : Nat) :
    f.get (p + k) (portAfter q (p + k)) = (byteOr f q.draws p k, portAfter q (p + (k + 1))) := by
  by_cases hin : p + k < 188
  · rw [f.get_inside hin, byteOr, if_pos hin, portAfter_inside q (by omega), portAfter_inside q (by omega)]
  · have hdraws : (portAfter q (p + k)).draws = q.draws + (p + k - 188) := by
      unfold portAfter
      split
      · omega
      · rfl
    rw [f.get_outside (by omega), byteOr, if_neg hin, hdraws, portAfter, if_neg (by omega),
      show p + (k + 1) - 188 = p + k - 188 + 1 by omega, Nat.add_assoc]

/-- The first read, from inside the frame or just past it. -/
theorem FrameBuf.get_first (f : FrameBuf) (q : Port) {p : Nat} (hp : p ≤ 188) :
    f.get p q = (byteOr f q.draws p 0, portAfter q (p + 1)) := by
  have h := f.get_upward q p 0
  rwa [Nat.add_zero, portAfter_inside q hp] at h

theorem byteOr_toNat (f : FrameBuf) (d p k : Nat) : (byteOr f d p k).toNat = pb f d p k := rfl

theorem pb_lt (f : FrameBuf) (d p k : Nat) : pb f d p k < 256 := (byteOr f d p k).isLt

theorem pb_inside (f : FrameBuf) (d : Nat) {p k : Nat} (h : p + k < 188) : pb f d p k = fb f (p + k) := by
  rw [pb, byteOr, if_pos h, fb]

/-! ### The fields as numbers -/

theorem startNat_lt (f : FrameBuf) (d p : Nat) : startNat f d p < 2 ^ 24 := by
  have h0 := pb_lt f d p 0
  have h1 := pb_lt f d p 1
  have h2 := pb_lt f d p 2
  unfold startNat
  omega

theorem startBytes_eq (f : FrameBuf) (d p : Nat) :
    byteOr f d p 0 ++ byteOr f d p 1 ++ byteOr f d p 2 = BitVec.ofNat 24 (startNat f d p) := by
  apply BitVec.eq_of_toNat_eq
  rw [BitVec.toNat_ofNat, Nat.mod_eq_of_lt (startNat_lt f d p)]
  simp only [toNat_append_eq, byteOr_toNat, startNat]
  omega

theorem start_ne_iff (f : FrameBuf) (d p : Nat) :
    BitVec.ofNat 24 (startNat f d p) ≠ pesStartCode ↔ startNat f d p ≠ 1 := by
  rw [Ne, ← BitVec.toNat_inj, BitVec.toNat_ofNat, Nat.mod_eq_of_lt (startNat_lt f d p)]
  rfl

theorem pktBytes_toNat (f : FrameBuf) (d p : Nat) : (byteOr f d p 4 ++ byteOr f d p 5).toNat = pktNat f d p :=
  toNat_append_eq _ _

theorem pktBytes_eq (f : FrameBuf) (d p : Nat) :
    byteOr f d p 4 ++ byteOr f d p 5 = BitVec.ofNat 16 (pktNat f d p) := by
  rw [← pktBytes_toNat, BitVec.ofNat_toNat, BitVec.setWidth_eq]

/-- The identifier's range test (42_pes_header.md R203). -/
theorem streamHasExt_iff (f : FrameBuf) (d p : Nat) : streamHasExt (byteOr f d p 3) = true ↔ AudioVideo f d p := by
  simp [streamHasExt, AudioVideo, pesAvIdLo, pesAvIdHi, BitVec.le_def, byteOr_toNat]

/-- FLAGS2[7], the presence of a PTS (42_pes_header.md R206). -/
theorem hasPts_iff (fl2 : Byte) : (ptsDts fl2).getLsbD 1 = true ↔ 128 ≤ fl2.toNat := by
  have h := fl2.isLt
  simp only [ptsDts, getLsbD_eq_bitOf, bitOf, BitVec.extractLsb'_toNat, Nat.shiftRight_eq_div_pow, decide_eq_true_eq]
  omega

/-- FLAGS2[7:6] = 0b11, the presence of a DTS (42_pes_header.md R206). -/
theorem hasDts_iff (fl2 : Byte) : ptsDts fl2 = 3 ↔ 192 ≤ fl2.toNat := by
  have h := fl2.isLt
  rw [ptsDts, ← BitVec.toNat_inj, BitVec.extractLsb'_toNat, Nat.shiftRight_eq_div_pow]
  change _ = 3 ↔ _
  omega

theorem stampNat_lt (f : FrameBuf) (d p k : Nat) : stampNat f d p k < 2 ^ 33 := by
  have h1 := pb_lt f d p (k + 1)
  have h2 := pb_lt f d p (k + 2)
  have h3 := pb_lt f d p (k + 3)
  have h4 := pb_lt f d p (k + 4)
  unfold stampNat
  omega

/-- The slices of a stamp are the arithmetic of 42_pes_header.md R207. -/
theorem stampValue_eq (f : FrameBuf) (d p k : Nat) :
    stampValue (byteOr f d p k) (byteOr f d p (k + 1)) (byteOr f d p (k + 2)) (byteOr f d p (k + 3))
      (byteOr f d p (k + 4)) = BitVec.ofNat 33 (stampNat f d p k) := by
  have h2 := pb_lt f d p (k + 2)
  have h4 := pb_lt f d p (k + 4)
  apply BitVec.eq_of_toNat_eq
  rw [BitVec.toNat_ofNat, Nat.mod_eq_of_lt (stampNat_lt f d p k)]
  simp only [stampValue, toNat_append_eq, BitVec.extractLsb'_toNat, Nat.shiftRight_eq_div_pow, byteOr_toNat, stampNat]
  omega

/-! ### The stages of the parse -/

theorem FrameBuf.stamp_upward (f : FrameBuf) (q : Port) (p k : Nat) :
    f.stamp (p + k) (portAfter q (p + k)) =
      (BitVec.ofNat 33 (stampNat f q.draws p k), portAfter q (p + (k + 5))) := by
  simp only [FrameBuf.stamp, Reading.bind_apply, Reading.pure_apply, Nat.add_assoc, f.get_upward, Nat.reduceAdd,
    stampValue_eq]

/-- The extension after the six basic bytes (42_pes_header.md R205, R206): no stamp, a PTS, or a PTS and a DTS. -/
theorem FrameBuf.pesExtension_upward (f : FrameBuf) (q : Port) (p : Nat) :
    f.pesExtension p (pesBasicRef f q.draws p true) (portAfter q (p + 6)) =
      ((pesExtRef f q.draws p, res .ok (9 + pb f q.draws p 8)), portAfter q (p + pesExtReads f q.draws p)) := by
  simp only [FrameBuf.pesExtension, Reading.bind_apply, Reading.ite_apply, Reading.pure_apply, f.get_upward,
    Nat.reduceAdd, hasPts_iff, hasDts_iff, byteOr_toNat, pesExtRef, pesExtReads]
  by_cases hpts : 128 ≤ pb f q.draws p 7
  · by_cases hdts : 192 ≤ pb f q.draws p 7
    · simp only [if_pos hpts, if_pos hdts, f.stamp_upward, Nat.reduceAdd]
      rfl
    · simp only [if_pos hpts, if_neg hdts, f.stamp_upward, Nat.reduceAdd]
      rfl
  · have hdts : ¬192 ≤ pb f q.draws p 7 := by omega
    simp only [if_neg hpts, if_neg hdts]
    rfl

section

variable {f : FrameBuf} {q : Port} {p : Nat} (hp : p ≤ 188)
include hp

/-- A wrong start code ends the parse after its three bytes (42_pes_header.md R202). -/
theorem FrameBuf.pesParse_badStart (h : startNat f q.draws p ≠ 1) :
    f.pesParse p q =
      (({ PesRegs.zero with startPrefix := BitVec.ofNat 24 (startNat f q.draws p) }, ⟨.invalidStartCode, 0⟩),
        portAfter q (p + 3)) := by
  simp only [FrameBuf.pesParse, Reading.bind_apply, Reading.ite_apply, f.get_first q hp, f.get_upward, Nat.reduceAdd,
    startBytes_eq, start_ne_iff, if_pos h]
  rfl

/-- Past a good start code the six basic bytes are read, and the machine's test of the identifier and the length
decides whether the extension follows. -/
theorem FrameBuf.pesParse_goodStart (h : startNat f q.draws p = 1) :
    f.pesParse p q =
      if !streamHasExt (byteOr f q.draws p 3) || decide (pktNat f q.draws p < 3) then
        ((pesBasicRef f q.draws p (streamHasExt (byteOr f q.draws p 3)), ⟨.ok, 6⟩), portAfter q (p + 6))
      else
        f.pesExtension p (pesBasicRef f q.draws p (streamHasExt (byteOr f q.draws p 3))) (portAfter q (p + 6)) := by
  simp only [FrameBuf.pesParse, Reading.bind_apply, Reading.ite_apply, f.get_first q hp, f.get_upward, Nat.reduceAdd,
    startBytes_eq, start_ne_iff, if_neg (not_not_intro h), pktBytes_toNat]
  rw [h, pktBytes_eq]
  rfl

/-- An identifier outside the audio and video ranges has no extension (42_pes_header.md R203). -/
theorem FrameBuf.pesParse_noExtension (h : startNat f q.draws p = 1) (hav : ¬AudioVideo f q.draws p) :
    f.pesParse p q = ((pesBasicRef f q.draws p false, ⟨.ok, 6⟩), portAfter q (p + 6)) := by
  have hext : streamHasExt (byteOr f q.draws p 3) = false := by simpa using mt (streamHasExt_iff f _ p).1 hav
  rw [f.pesParse_goodStart hp h, hext]
  rfl

/-- A packet too short for an extension ends the parse after the basic bytes (42_pes_header.md R204). -/
theorem FrameBuf.pesParse_short (h : startNat f q.draws p = 1) (hav : AudioVideo f q.draws p)
    (hpkt : pktNat f q.draws p < 3) :
    f.pesParse p q = ((pesBasicRef f q.draws p true, ⟨.ok, 6⟩), portAfter q (p + 6)) := by
  rw [f.pesParse_goodStart hp h, (streamHasExt_iff f _ p).2 hav, decide_eq_true hpkt]
  rfl

/-- An audio or video packet of length 3 or more has the extended header (42_pes_header.md R205). -/
theorem FrameBuf.pesParse_extended (h : startNat f q.draws p = 1) (hav : AudioVideo f q.draws p)
    (hpkt : 3 ≤ pktNat f q.draws p) :
    f.pesParse p q =
      ((pesExtRef f q.draws p, res .ok (9 + pb f q.draws p 8)), portAfter q (p + pesExtReads f q.draws p)) := by
  rw [f.pesParse_goodStart hp h, (streamHasExt_iff f _ p).2 hav, decide_eq_false (Nat.not_lt.2 hpkt)]
  exact f.pesExtension_upward q p

end

/-! ### The parse as the formulas of the claims -/

section

variable {f : FrameBuf} {d p : Nat}

theorem pesRef_badStart (h : startNat f d p ≠ 1) :
    pesRef f d p = { PesRegs.zero with startPrefix := BitVec.ofNat 24 (startNat f d p) } := if_pos h

theorem pesRef_noExtension (h : startNat f d p = 1) (hav : ¬AudioVideo f d p) :
    pesRef f d p = pesBasicRef f d p false := by
  rw [pesRef, if_neg (not_not_intro h), if_pos hav]

theorem pesRef_short (h : startNat f d p = 1) (hav : AudioVideo f d p) (hpkt : pktNat f d p < 3) :
    pesRef f d p = pesBasicRef f d p true := by
  rw [pesRef, if_neg (not_not_intro h), if_neg (not_not_intro hav), if_pos hpkt]

theorem pesRef_extended (h : startNat f d p = 1) (hav : AudioVideo f d p) (hpkt : 3 ≤ pktNat f d p) :
    pesRef f d p = pesExtRef f d p := by
  rw [pesRef, if_neg (not_not_intro h), if_neg (not_not_intro hav), if_neg (Nat.not_lt.2 hpkt)]

theorem pesReads_badStart (h : startNat f d p ≠ 1) : pesReads f d p = 3 := if_pos h

theorem pesReads_basic (h : startNat f d p = 1) (hbasic : ¬AudioVideo f d p ∨ pktNat f d p < 3) :
    pesReads f d p = 6 := by
  rw [pesReads, if_neg (not_not_intro h), if_pos hbasic]

theorem pesReads_extended (h : startNat f d p = 1) (hav : AudioVideo f d p) (hpkt : 3 ≤ pktNat f d p) :
    pesReads f d p = pesExtReads f d p := by
  rw [pesReads, if_neg (not_not_intro h), if_neg (not_or_intro (not_not_intro hav) (Nat.not_lt.2 hpkt))]

end

/-- The code and value `PesParse(P)` reports. -/
noncomputable def pesResultRef (f : FrameBuf) (d p : Nat) : Result :=
  if startNat f d p = 1 then ⟨.ok, (pesRef f d p).hdrLen⟩ else ⟨.invalidStartCode, 0⟩

theorem pesResultRef_ok {f : FrameBuf} {d p : Nat} {h : PesRegs} (hstart : startNat f d p = 1)
    (hpes : pesRef f d p = h) : pesResultRef f d p = ⟨.ok, h.hdrLen⟩ := by
  rw [pesResultRef, if_pos hstart, hpes]

/-- `PesParse(P)` (42_pes_header.md R201) in its four rows. -/
theorem FrameBuf.pesParse_eq (f : FrameBuf) (q : Port) {p : Nat} (hp : p ≤ 188) :
    f.pesParse p q =
      ((pesRef f q.draws p, pesResultRef f q.draws p), portAfter q (p + pesReads f q.draws p)) := by
  by_cases h : startNat f q.draws p = 1
  · by_cases hav : AudioVideo f q.draws p
    · by_cases hpkt : pktNat f q.draws p < 3
      · have hpes := pesRef_short h hav hpkt
        rw [f.pesParse_short hp h hav hpkt, pesResultRef_ok h hpes, hpes, pesReads_basic h (.inr hpkt)]
        rfl
      · have hlong := Nat.not_lt.1 hpkt
        have hpes := pesRef_extended h hav hlong
        rw [f.pesParse_extended hp h hav hlong, pesResultRef_ok h hpes, hpes, pesReads_extended h hav hlong]
        rfl
    · have hpes := pesRef_noExtension h hav
      rw [f.pesParse_noExtension hp h hav, pesResultRef_ok h hpes, hpes, pesReads_basic h (.inl hav)]
      rfl
  · rw [f.pesParse_badStart hp h, pesRef_badStart h, pesResultRef, if_neg h, pesReads_badStart h]

theorem pesBody_eq (s : State) {p : Nat} (hp : p ≤ 188) :
    pesBody p s =
      ({ s with
          pes := pesRef s.frame s.port.draws p
          port := portAfter s.port (p + pesReads s.frame s.port.draws p) },
        pesResultRef s.frame s.port.draws p) := by
  simp only [pesBody, s.frame.pesParse_eq s.port hp]

theorem exec_pesparse (s : State) {off : Byte} (h : off.toNat ≤ 187) :
    exec (.pesparse off) s =
      .next
        { s with
          pes := pesRef s.frame s.port.draws off.toNat
          port := portAfter s.port (off.toNat + pesReads s.frame s.port.draws off.toNat)
          result := pesResultRef s.frame s.port.draws off.toNat } := by
  have hrun : execPesparse off s = complete (pesBody off.toNat s) := if_pos (Nat.lt_succ_of_le h)
  exact hrun.trans (congrArg complete (pesBody_eq s (by omega)))

theorem exec_pesparse_outside (s : State) {off : Byte} (h : 187 < off.toNat) :
    exec (.pesparse off) s = .next { s with result := ⟨.illegalCommand, 0⟩ } :=
  if_neg (Nat.not_lt.2 h)

theorem offset_toNat {p : Nat} (h : p ≤ 187) : (BitVec.ofNat 8 p).toNat = p :=
  BitVec.toNat_ofNat p 8 ▸ Nat.mod_eq_of_lt (by omega)

/-- Settles O25: `exec_pesparse` at the offset's byte. -/
theorem pesparseDecodesHeader : Obligations.PesparseDecodesHeader := by
  intro s p hp
  have hoff := offset_toNat hp
  have hrun := exec_pesparse s (off := BitVec.ofNat 8 p) (hoff.symm ▸ hp)
  rwa [hoff] at hrun

/-- Settles O26: in each row of R209 the set is `pesRef`'s and the value is its HDR_LEN. -/
theorem pesparseResultTable : Obligations.PesparseResultTable := by
  intro s off
  refine ⟨exec_pesparse_outside s, fun hoff => ⟨_, exec_pesparse s hoff, ?_, ?_, ?_, ?_⟩⟩
  · intro h
    exact ⟨if_neg h, pesRef_badStart h⟩
  · intro h hav
    have hpes := pesRef_noExtension h hav
    exact ⟨pesResultRef_ok h hpes, hpes⟩
  · intro h hav hpkt
    have hpes := pesRef_short h hav hpkt
    exact ⟨pesResultRef_ok h hpes, hpes⟩
  · intro h hav hpkt
    have hpes := pesRef_extended h hav hpkt
    exact ⟨pesResultRef_ok h hpes, hpes⟩

/-! ### Stamps inside the frame -/

theorem bitOf_seven_iff {n : Nat} (h : n < 256) : bitOf n 7 = true ↔ 128 ≤ n := by
  rw [bitOf, decide_eq_true_eq]
  omega

theorem pesExtRef_pts_toNat {f : FrameBuf} {d p : Nat} (h : 128 ≤ pb f d p 7) :
    (pesExtRef f d p).pts.toNat = stampNat f d p 9 := by
  simp only [pesExtRef, if_pos h, BitVec.toNat_ofNat, Nat.mod_eq_of_lt (stampNat_lt f d p 9)]

/-- Inside the frame a stamp is the arithmetic of R207 on frame bytes, whatever draws came before. -/
theorem stampNat_inside (f : FrameBuf) (d : Nat) {p k : Nat} (h : p + (k + 4) < 188) :
    stampNat f d p k =
      fb f (p + k) / 2 % 8 * 2 ^ 30 + fb f (p + (k + 1)) * 2 ^ 22 + fb f (p + (k + 2)) / 2 * 2 ^ 15 +
        fb f (p + (k + 3)) * 2 ^ 7 + fb f (p + (k + 4)) / 2 := by
  rw [stampNat, pb_inside f d (show p + k < 188 by omega), pb_inside f d (show p + (k + 1) < 188 by omega),
    pb_inside f d (show p + (k + 2) < 188 by omega), pb_inside f d (show p + (k + 3) < 188 by omega), pb_inside f d h]

/-- The five bytes of a 33-bit value, under any prefix and with the marker bits set, decode to it
(42_pes_header.md R215). -/
theorem stamp_roundTrip {v pre : Nat} (hv : v < 2 ^ 33) :
    (pre * 16 + v / 2 ^ 30 * 2 + 1) / 2 % 8 * 2 ^ 30 + v / 2 ^ 22 % 256 * 2 ^ 22 +
      (v / 2 ^ 15 % 128 * 2 + 1) / 2 * 2 ^ 15 + v / 2 ^ 7 % 256 * 2 ^ 7 + (v % 128 * 2 + 1) / 2 = v := by
  omega

/-- Settles O27: inside the frame the last row of R209 speaks of frame bytes, and the stamp's bytes decode by
`stamp_roundTrip`. -/
theorem pesparseStampProperty : Obligations.PesparseStampProperty := by
  intro s p v pre hp h0 h1 h2 hlo hhi hpkt
  have hoff := offset_toNat (show p ≤ 187 by omega)
  have hin {k : Nat} (hk : k ≤ 18) : pb s.frame s.port.draws p k = fb s.frame (p + k) :=
    pb_inside _ _ (by omega)
  have hstart : startNat s.frame s.port.draws p = 1 := by
    simp only [startNat, hin, Nat.reduceLeDiff, Nat.add_zero, h0, h1, h2]
  have hav : AudioVideo s.frame s.port.draws p := by
    simp only [AudioVideo, hin, Nat.reduceLeDiff, hlo, hhi, and_self]
  have hlong : 3 ≤ pktNat s.frame s.port.draws p := by
    simpa only [pktNat, hin, Nat.reduceLeDiff] using hpkt
  obtain ⟨t, hrun, -, -, -, hrow⟩ := (pesparseResultTable s (BitVec.ofNat 8 p)).2 (by omega)
  rw [hoff] at hrow
  obtain ⟨hresult, hpes⟩ := hrow hstart hav hlong
  have hpts (hflag : bitOf (fb s.frame (p + 7)) 7 = true) : t.pes.pts.toNat = stampNat s.frame s.port.draws p 9 := by
    have hbit := (bitOf_seven_iff (fb_lt _ _)).1 hflag
    rw [hpes, pesExtRef_pts_toNat (by rwa [hin (by decide)])]
  have hstamp := stampNat_inside s.frame s.port.draws (show p + (9 + 4) < 188 by omega)
  refine ⟨t, hrun, ?_, fun hflag => (hpts hflag).trans hstamp, ?_⟩
  · rw [hresult, hin (by decide)]
  · intro hflag hv _ h9 h10 h11 h12 h13
    rw [hpts hflag, hstamp, h9, h10, h11, h12, h13, stamp_roundTrip hv]

end Sys2Proof.Machine
end

section
/-! SUPPORT. INIT and ABSORB: the body of ABSORB in the rows of its transition table (43_pes_assembler.md R262), each with
the state and the result it ends in, in the formulas of the claims. -/

namespace Sys2Proof.Machine

open Sys2Proof.Claims

/-! ### INIT -/

theorem execInit_eq (pid : BitVec 13) (s : State) :
    execInit pid s = .next { s with asm := ⟨pid, false, 0, 0, 0⟩, pes := PesRegs.zero, result := ⟨.ok, 0⟩ } := rfl

/-- The INIT word is legal and decodes to its target, whatever IMM8 holds (30_encoding.md R120). -/
theorem runCommand_init {pid imm8 : Nat} (hpid : pid ≤ 8191) (himm : imm8 ≤ 255) (s : State) :
    runCommand (BitVec.ofNat 32 (1 + imm8 * 256 + pid * 65536)) s = execInit (BitVec.ofNat 13 pid) s := by
  have hword : (BitVec.ofNat 32 (1 + imm8 * 256 + pid * 65536)).toNat = 1 + imm8 * 256 + pid * 65536 := by
    rw [BitVec.toNat_ofNat]
    omega
  generalize BitVec.ofNat 32 (1 + imm8 * 256 + pid * 65536) = w at hword ⊢
  have hop : opOf w = 1 := by unfold opOf; omega
  have hpid13 : pid13Of w = pid := by unfold pid13Of; omega
  have hlegal : ¬IllegalWord w := by unfold IllegalWord rsv0Of rsv1Of; omega
  rw [runCommand_legal hlegal, commandOf, hop, hpid13]
  rfl

/-- Settles O17: the word by `runCommand_init`, INIT's effect by `execInit_eq`, which does not read what it overwrites. -/
theorem initConfiguresAssembler : Obligations.InitConfiguresAssembler :=
  fun s _ _ hpid himm => ⟨(runCommand_init hpid himm s).trans (execInit_eq _ s), execInit_eq _ s, execInit_eq _ _⟩

/-! ### ABSORB's tests in the formulas of the claims -/

theorem afcHasPayload_iff (c : BitVec 2) : afcHasPayload c = true ↔ HasPayload c := by
  simp [afcHasPayload, HasPayload]

theorem payloadOffset_eq (s : State) : payloadOffset s.ts.afc s.af.len = offRef s := by
  by_cases h : HasField s.ts.afc
  · rw [payloadOffset, if_pos ((afcHasField_iff _).2 h), offRef, if_pos h, tsHeaderLen]
    omega
  · rw [payloadOffset, if_neg (mt (afcHasField_iff _).1 h), offRef, if_neg h, tsHeaderLen]

theorem pays_iff (s : State) :
    Pays s ↔ ¬(!afcHasPayload s.ts.afc || decide (frameLen ≤ payloadOffset s.ts.afc s.af.len)) = true := by
  simp [Pays, ← afcHasPayload_iff, payloadOffset_eq, frameLen]

theorem ccOk_iff (s : State) : CcOk s ↔ s.ts.cc = expectedCc s.ts.afc s.asm.lastCc := by
  rw [← BitVec.toNat_inj, CcOk, expectedCc]
  by_cases h : HasPayload s.ts.afc
  · rw [if_pos h, if_pos ((afcHasPayload_iff _).2 h), BitVec.toNat_add]
    rfl
  · rw [if_neg h, if_neg (mt (afcHasPayload_iff _).1 h)]

theorem fits_iff (s : State) : Fits s ↔ fitsBuffer s.params.pesBufCap s.asm.bufLen (lenRef s) = true := by
  rw [fitsBuffer, decide_eq_true_iff, Fits]

theorem pesResultRef_code_ok_iff (f : FrameBuf) (d p : Nat) : (pesResultRef f d p).code = .ok ↔ startNat f d p = 1 := by
  unfold pesResultRef
  split <;> simp_all

theorem lenRef_pos {s : State} (h : Pays s) : 0 < lenRef s := Nat.sub_pos_of_lt h.2

theorem lenRef_le (s : State) : lenRef s ≤ 184 := by
  unfold lenRef offRef
  split <;> omega

theorem offRef_add_lenRef {s : State} (h : Pays s) : offRef s + lenRef s = 188 := Nat.add_sub_of_le h.2.le

theorem packetStuff_le (s : State) : packetStuff s ≤ 255 := by
  unfold packetStuff
  split
  · exact (stuffRef_le_len _ _ _).trans (Nat.le_of_lt_succ s.af.len.isLt)
  · omega

theorem packetStuff_toNat (s : State) : (BitVec.ofNat 32 (packetStuff s)).toNat = packetStuff s := by
  have hle := packetStuff_le s
  rw [BitVec.toNat_ofNat]
  omega

/-- PKT_LEN of every good header is the number read at its bytes 4 and 5 (42_pes_header.md R201). -/
theorem pesRef_pktLen {f : FrameBuf} {d p : Nat} (h : startNat f d p = 1) :
    (pesRef f d p).pktLen.toNat = pktNat f d p := by
  have hpkt : (pesRef f d p).pktLen = BitVec.ofNat 16 (pktNat f d p) := by
    by_cases hav : AudioVideo f d p
    · by_cases hshort : pktNat f d p < 3
      · rw [pesRef_short h hav hshort]; rfl
      · rw [pesRef_extended h hav (Nat.not_lt.1 hshort)]; rfl
    · rw [pesRef_noExtension h hav]; rfl
  rw [hpkt, ← pktBytes_toNat, BitVec.ofNat_toNat, BitVec.setWidth_eq]

theorem unitComplete_iff (pktLen : BitVec 16) (bufLen : BitVec 32) :
    unitComplete pktLen bufLen = true ↔ pktLen.toNat ≠ 0 ∧ 6 + pktLen.toNat ≤ bufLen.toNat := by
  rw [unitComplete, Bool.and_eq_true, bne_iff_ne, decide_eq_true_iff, pesBasicHdrLen, ← BitVec.toNat_inj.ne]
  rfl

/-! ### The FINISHED test ends a command -/

section

variable {s : State} {more : ResultCode} {n : Nat}

theorem finishUnit_complete (h : unitComplete s.pes.pktLen s.asm.bufLen = true) :
    finishUnit s more n = (s.setActive false, res .finished n) := if_pos h

theorem finishUnit_incomplete (h : ¬unitComplete s.pes.pktLen s.asm.bufLen = true) :
    finishUnit s more n = (s, res more n) := if_neg h

end

section

variable (s : State) (more : ResultCode) (n : Nat)

theorem finishUnit_code : (finishUnit s more n).2.code = .finished ∨ (finishUnit s more n).2.code = more := by
  unfold finishUnit
  split
  · exact .inl rfl
  · exact .inr rfl

theorem finishUnit_code_ne {c : ResultCode} (hfinished : .finished ≠ c) (hmore : more ≠ c) :
    (finishUnit s more n).2.code ≠ c := by
  rcases finishUnit_code s more n with hcode | hcode <;> rwa [hcode]

@[simp] theorem finishUnit_value : (finishUnit s more n).2.value = BitVec.ofNat 16 n := by
  unfold finishUnit; split <;> rfl
@[simp] theorem finishUnit_pes : (finishUnit s more n).1.pes = s.pes := by unfold finishUnit; split <;> rfl
@[simp] theorem finishUnit_ovf : (finishUnit s more n).1.ovf = s.ovf := by unfold finishUnit; split <;> rfl
@[simp] theorem finishUnit_port : (finishUnit s more n).1.port = s.port := by unfold finishUnit; split <;> rfl
@[simp] theorem finishUnit_pesBuf : (finishUnit s more n).1.pesBuf = s.pesBuf := by unfold finishUnit; split <;> rfl

/-- Only ACTIVE rests on the FINISHED test. -/
@[simp] theorem finishUnit_asm :
    (finishUnit s more n).1.asm =
      { s.asm with active := s.asm.active && !unitComplete s.pes.pktLen s.asm.bufLen } := by
  unfold finishUnit
  split <;> simp_all

end

/-! ### The states ABSORB passes through -/

open Classical in
/-- The packet's counter and stuffing recorded: ABSORB after steps 3 and 4 (43_pes_assembler.md R249, R250). -/
noncomputable def packetCounted (s : State) : State :=
  { s with
    asm := { s.asm with
      lastCc := if HasPayload s.ts.afc then s.ts.cc else s.asm.lastCc
      stuffTotal := s.asm.stuffTotal + BitVec.ofNat 32 (packetStuff s) }
    port := portAfterStuff s }

/-- A header read: the PES set and the port it leaves. -/
def State.withHeader (s : State) (h : PesRegs) (q : Port) : State := { s with pes := h, port := q }

section

variable (s : State) (h : PesRegs) (q : Port)

@[simp] theorem State.withHeader_pes : (s.withHeader h q).pes = h := rfl
@[simp] theorem State.withHeader_asm : (s.withHeader h q).asm = s.asm := rfl
@[simp] theorem State.withHeader_ovf : (s.withHeader h q).ovf = s.ovf := rfl
@[simp] theorem State.withHeader_frame : (s.withHeader h q).frame = s.frame := rfl
@[simp] theorem State.withHeader_pesBuf : (s.withHeader h q).pesBuf = s.pesBuf := rfl

end

/-- The old unit dropped and the header at the payload offset read: step 6 up to its parse (43_pes_assembler.md R252). -/
noncomputable def headerRead (s : State) : State :=
  (beginUnit (packetCounted s) (packetStuff s)).withHeader (pesRef s.frame (drawsAfterStuff s) (offRef s))
    (portAfterHeader s)

theorem headerRead_ovf (s : State) : (headerRead s).ovf = s.ovf := State.withHeader_ovf _ _ _

theorem headerRead_frame (s : State) : (headerRead s).frame = s.frame := State.withHeader_frame _ _ _

theorem headerRead_pesBuf (s : State) : (headerRead s).pesBuf = s.pesBuf := State.withHeader_pesBuf _ _ _

/-- The first packet of a unit stored, before the FINISHED test (43_pes_assembler.md R255). -/
noncomputable def unitStarted (s : State) : State :=
  ((headerRead s).append (offRef s) (lenRef s)).setActive true

/-- A continuation's payload stored, before the FINISHED test (43_pes_assembler.md R256). -/
noncomputable def unitContinued (s : State) : State := (packetCounted s).append (offRef s) (lenRef s)

theorem countStuffing_recordCc (s : State) : countStuffing (recordCc s) = (packetCounted s, packetStuff s) := by
  by_cases hpay : HasPayload s.ts.afc <;> by_cases hfield : HasField s.ts.afc <;>
    simp [countStuffing, recordCc, packetCounted, packetStuff, portAfterStuff, afcHasPayload_iff, afcHasField_iff, hpay,
      hfield, stuffing_eq]

theorem pesBody_beginUnit {s : State} (h : Pays s) :
    pesBody (offRef s) (beginUnit (packetCounted s) (packetStuff s)) =
      (headerRead s, pesResultRef s.frame (drawsAfterStuff s) (offRef s)) :=
  pesBody_eq _ h.2.le

/-! ### The rows of the table -/

theorem absorbBody_unexpectedId {s : State} (h : s.ts.pid ≠ s.asm.targetPid) :
    absorbBody s = (s, res .unexpectedId 0) := if_pos h

theorem absorbBody_lostContinuity {s : State} (hpid : s.ts.pid = s.asm.targetPid) (hactive : s.asm.active = true)
    (hcc : ¬CcOk s) : absorbBody s = (s.setActive false, res .lostContinuity 0) := by
  rw [absorbBody, if_neg (not_not_intro hpid), if_pos ⟨hactive, mt (ccOk_iff s).2 hcc⟩]
  rfl

/-- An accepted packet is counted and goes on to step 5. -/
theorem absorbBody_accepted {s : State} (h : Accepted s) :
    absorbBody s = absorbPayload (packetCounted s) (packetStuff s) := by
  obtain ⟨hpid, hcc⟩ := h
  rw [absorbBody, if_neg (not_not_intro hpid), if_neg fun hlost => hlost.2 ((ccOk_iff s).1 (hcc hlost.1))]
  simp only [countStuffing_recordCc]

section

variable {s : State} (h : Accepted s)
include h

theorem absorbBody_noPayload (hpays : ¬Pays s) :
    absorbBody s = (packetCounted s, res (if s.asm.active then .continues else .lostNoPayload) 0) := by
  rw [absorbBody_accepted h]
  exact if_pos (not_not.1 (mt (pays_iff s).2 hpays))

/-- A payload at the claims' offset and length: a unit start, a continuation, or neither (steps 6 to 8). -/
theorem absorbBody_payload (hpays : Pays s) :
    absorbBody s =
      if s.ts.pusi then absorbStart (offRef s) (lenRef s) (packetStuff s) (packetCounted s)
      else if s.asm.active then absorbContinue (offRef s) (lenRef s) (packetCounted s)
      else (packetCounted s, res .lostOutOfSync 0) := by
  rw [absorbBody_accepted h, lenRef, ← payloadOffset_eq s]
  exact if_neg ((pays_iff s).1 hpays)

theorem absorbBody_badStart (hpays : Pays s) (hpusi : s.ts.pusi = true) (hstart : ¬GoodStart s) :
    absorbBody s = (headerRead s, res .invalidStartCode 0) := by
  rw [absorbBody_payload h hpays, if_pos hpusi, absorbStart_cases, pesBody_beginUnit hpays]
  exact if_neg (mt (pesResultRef_code_ok_iff _ _ _).1 hstart)

theorem absorbBody_goodStart (hpays : Pays s) (hpusi : s.ts.pusi = true) (hstart : GoodStart s) :
    absorbBody s = finishUnit (unitStarted s) .started (lenRef s) := by
  rw [absorbBody_payload h hpays, if_pos hpusi, absorbStart_cases, pesBody_beginUnit hpays]
  exact if_pos ((pesResultRef_code_ok_iff _ _ _).2 hstart)

theorem absorbBody_overflow (hpays : Pays s) (hpusi : s.ts.pusi = false) (hactive : s.asm.active = true)
    (hfits : ¬Fits s) : absorbBody s = (((packetCounted s).setActive false).setOvf, res .bufferOverflow 0) := by
  rw [absorbBody_payload h hpays, hpusi, hactive]
  exact if_neg (mt (fits_iff s).2 hfits)

theorem absorbBody_continuation (hpays : Pays s) (hpusi : s.ts.pusi = false) (hactive : s.asm.active = true)
    (hfits : Fits s) : absorbBody s = finishUnit (unitContinued s) .continues (lenRef s) := by
  rw [absorbBody_payload h hpays, hpusi, hactive]
  exact if_pos ((fits_iff s).1 hfits)

theorem absorbBody_outOfSync (hpays : Pays s) (hpusi : s.ts.pusi = false) (hactive : s.asm.active = false) :
    absorbBody s = (packetCounted s, res .lostOutOfSync 0) := by
  rw [absorbBody_payload h hpays, hpusi, hactive]
  rfl

end

/-- What ABSORB's body can end in, a row of R262 each; the rows that append end in the FINISHED test. -/
inductive AbsorbRow (s : State) : State × Result → Prop
  | unexpectedId (hpid : s.ts.pid ≠ s.asm.targetPid) : AbsorbRow s (s, res .unexpectedId 0)
  | lostContinuity (hpid : s.ts.pid = s.asm.targetPid) (hactive : s.asm.active = true) (hcc : ¬CcOk s) :
    AbsorbRow s (s.setActive false, res .lostContinuity 0)
  | noPayload (h : Accepted s) (hpays : ¬Pays s) :
    AbsorbRow s (packetCounted s, res (if s.asm.active then .continues else .lostNoPayload) 0)
  | badStart (h : Accepted s) (hpays : Pays s) (hpusi : s.ts.pusi = true) (hstart : ¬GoodStart s) :
    AbsorbRow s (headerRead s, res .invalidStartCode 0)
  | goodStart (h : Accepted s) (hpays : Pays s) (hpusi : s.ts.pusi = true) (hstart : GoodStart s) :
    AbsorbRow s (finishUnit (unitStarted s) .started (lenRef s))
  | overflow (h : Accepted s) (hpays : Pays s) (hpusi : s.ts.pusi = false) (hactive : s.asm.active = true)
    (hfits : ¬Fits s) : AbsorbRow s (((packetCounted s).setActive false).setOvf, res .bufferOverflow 0)
  | continuation (h : Accepted s) (hpays : Pays s) (hpusi : s.ts.pusi = false) (hactive : s.asm.active = true)
    (hfits : Fits s) : AbsorbRow s (finishUnit (unitContinued s) .continues (lenRef s))
  | outOfSync (h : Accepted s) (hpays : Pays s) (hpusi : s.ts.pusi = false) (hactive : s.asm.active = false) :
    AbsorbRow s (packetCounted s, res .lostOutOfSync 0)

theorem absorbBody_row_of_accepted {s : State} (h : Accepted s) : AbsorbRow s (absorbBody s) := by
  by_cases hpays : Pays s
  · cases hpusi : s.ts.pusi
    · cases hactive : s.asm.active
      · rw [absorbBody_outOfSync h hpays hpusi hactive]
        exact .outOfSync h hpays hpusi hactive
      · by_cases hfits : Fits s
        · rw [absorbBody_continuation h hpays hpusi hactive hfits]
          exact .continuation h hpays hpusi hactive hfits
        · rw [absorbBody_overflow h hpays hpusi hactive hfits]
          exact .overflow h hpays hpusi hactive hfits
    · by_cases hstart : GoodStart s
      · rw [absorbBody_goodStart h hpays hpusi hstart]
        exact .goodStart h hpays hpusi hstart
      · rw [absorbBody_badStart h hpays hpusi hstart]
        exact .badStart h hpays hpusi hstart
  · rw [absorbBody_noPayload h hpays]
    exact .noPayload h hpays

/-- Every ABSORB is in one of the rows. -/
theorem absorbBody_row (s : State) : AbsorbRow s (absorbBody s) := by
  by_cases hpid : s.ts.pid = s.asm.targetPid
  · by_cases hlost : s.asm.active = true ∧ ¬CcOk s
    · rw [absorbBody_lostContinuity hpid hlost.1 hlost.2]
      exact .lostContinuity hpid hlost.1 hlost.2
    · exact absorbBody_row_of_accepted ⟨hpid, fun hactive => not_not.1 fun hcc => hlost ⟨hactive, hcc⟩⟩
  · rw [absorbBody_unexpectedId hpid]
    exact .unexpectedId hpid

theorem exec_absorb (s : State) : exec .absorb s = .next { (absorbBody s).1 with result := (absorbBody s).2 } := rfl

/-! ### The identifier filter, the continuity check and the header failure -/

/-- Settles O28: the first row. -/
theorem absorbIgnoresOtherPids : Obligations.AbsorbIgnoresOtherPids := by
  intro s hpid
  rw [exec_absorb, absorbBody_unexpectedId hpid]
  rfl

/-- LOST_CONTINUITY is reported by its own row alone. -/
theorem AbsorbRow.code_ne_lostContinuity {s : State} {x : State × Result} (hrow : AbsorbRow s x)
    (hcc : s.asm.active = false ∨ CcOk s) : x.2.code ≠ .lostContinuity := by
  cases hrow with
  | lostContinuity _ hactive hlost => simp [hactive, hlost] at hcc
  | noPayload => cases hactive : s.asm.active <;> simp [res]
  | goodStart | continuation => exact finishUnit_code_ne _ _ _ (by decide) (by decide)
  | unexpectedId | badStart | overflow | outOfSync => simp [res]

/-- Settles O29: the row of the wrong counter, and that no other row reports it. -/
theorem absorbContinuityCheck : Obligations.AbsorbContinuityCheck := by
  intro s hpid
  refine ⟨fun hactive hcc => ?_, fun hcc => ⟨_, exec_absorb s, (absorbBody_row s).code_ne_lostContinuity hcc⟩⟩
  rw [exec_absorb, absorbBody_lostContinuity hpid hactive hcc]
  rfl

theorem accepted_of_idle {s : State} (hpid : s.ts.pid = s.asm.targetPid) (hidle : s.asm.active = false) : Accepted s :=
  ⟨hpid, fun hactive => absurd (hidle.symm.trans hactive) Bool.false_ne_true⟩

/-- Settles O34: the row of the bad start code leaves Idle, where a continuation is in the last row. -/
theorem headerFailureAbandonsUnit : Obligations.HeaderFailureAbandonsUnit := by
  intro s h hpays hpusi hstart
  have hrun := exec_absorb s
  rw [absorbBody_badStart h hpays hpusi hstart] at hrun
  refine ⟨_, hrun, rfl, ?_, pesRef_badStart hstart, headerRead_pesBuf s, fun p hpid hcont hpayload => ?_⟩
  · simp [headerRead, packetCounted, hpays.1]
  · refine ⟨_, exec_absorb _, ?_⟩
    rw [absorbBody_outOfSync (accepted_of_idle hpid rfl) hpayload hcont rfl]
    rfl

/-! ### The transition table -/

@[simp] theorem unitStarted_active (s : State) : (unitStarted s).asm.active = true := rfl

@[simp] theorem unitContinued_active (s : State) : (unitContinued s).asm.active = s.asm.active := rfl

@[simp] theorem unitStarted_ovf (s : State) : (unitStarted s).ovf = s.ovf := headerRead_ovf s

@[simp] theorem unitContinued_ovf (s : State) : (unitContinued s).ovf = s.ovf := rfl

theorem unitStarted_bufLen (s : State) : (unitStarted s).asm.bufLen.toNat = lenRef s := by
  have hlen := lenRef_le s
  have hsum : (unitStarted s).asm.bufLen = 0#32 + BitVec.ofNat 32 (lenRef s) := rfl
  rw [hsum, BitVec.zero_add, BitVec.toNat_ofNat]
  omega

theorem unitContinued_bufLen {s : State} (hlegal : s.params.legal) (hfits : Fits s) :
    (unitContinued s).asm.bufLen.toNat = s.asm.bufLen.toNat + lenRef s := by
  obtain ⟨-, hcap⟩ := hlegal
  have hlen := lenRef_le s
  have hsum : (unitContinued s).asm.bufLen = s.asm.bufLen + BitVec.ofNat 32 (lenRef s) := rfl
  unfold Fits at hfits
  rw [hsum, BitVec.toNat_add, BitVec.toNat_ofNat]
  omega

theorem unitStarted_complete {s : State} (hstart : GoodStart s) :
    unitComplete (unitStarted s).pes.pktLen (unitStarted s).asm.bufLen = true ↔ DoneAtStart s := by
  have hpkt : (unitStarted s).pes.pktLen.toNat = pktNat s.frame (drawsAfterStuff s) (offRef s) := pesRef_pktLen hstart
  rw [unitComplete_iff, unitStarted_bufLen, hpkt]
  rfl

theorem unitContinued_complete {s : State} (hlegal : s.params.legal) (hfits : Fits s) :
    unitComplete (unitContinued s).pes.pktLen (unitContinued s).asm.bufLen = true ↔ DoneHere s := by
  rw [unitComplete_iff, unitContinued_bufLen hlegal hfits]
  rfl

theorem not_lost_of_accepted {s : State} (h : Accepted s) : ¬(s.asm.active = true ∧ ¬CcOk s) :=
  fun hlost => hlost.2 (h.2 hlost.1)

theorem AbsorbRow.matches_transition {s : State} {x : State × Result} (hrow : AbsorbRow s x)
    (hlegal : s.params.legal) :
    (x.2, x.1.asm.active, x.1.asm.bufLen.toNat) = transition s := by
  cases hrow with
  | unexpectedId hpid => simp [transition, hpid]
  | lostContinuity hpid hactive hcc => simp [transition, hpid, hactive, hcc]
  | noPayload h hpays =>
    cases hactive : s.asm.active
    · simp [transition, packetCounted, h.1, hactive, hpays]
    · simp [transition, packetCounted, h.1, h.2 hactive, hactive, hpays]
  | badStart h hpays hpusi hstart =>
    simp [transition, headerRead, h.1, not_lost_of_accepted h, hpays, hpusi, hstart]
  | goodStart h hpays hpusi hstart =>
    by_cases hdone : DoneAtStart s
    · rw [finishUnit_complete ((unitStarted_complete hstart).2 hdone)]
      simp [transition, h.1, not_lost_of_accepted h, hpays, hpusi, hstart, hdone, unitStarted_bufLen]
    · rw [finishUnit_incomplete (mt (unitStarted_complete hstart).1 hdone)]
      simp [transition, h.1, not_lost_of_accepted h, hpays, hpusi, hstart, hdone, unitStarted_bufLen]
  | overflow h hpays hpusi hactive hfits =>
    simp [transition, packetCounted, h.1, h.2 hactive, hpays, hpusi, hactive, hfits]
  | continuation h hpays hpusi hactive hfits =>
    have hlen := unitContinued_bufLen hlegal hfits
    by_cases hdone : DoneHere s
    · rw [finishUnit_complete ((unitContinued_complete hlegal hfits).2 hdone)]
      simp [transition, h.1, h.2 hactive, hpays, hpusi, hactive, hfits, hdone, hlen]
    · rw [finishUnit_incomplete (mt (unitContinued_complete hlegal hfits).1 hdone)]
      simp [transition, h.1, h.2 hactive, hpays, hpusi, hactive, hfits, hdone, hlen]
  | outOfSync h hpays hpusi hactive => simp [transition, packetCounted, h.1, hpays, hpusi, hactive]

theorem not_accepted_of_lost {s : State} (hactive : s.asm.active = true) (hcc : ¬CcOk s) : ¬Accepted s :=
  fun h => hcc (h.2 hactive)

theorem not_start_of_pusi {s : State} (hpusi : s.ts.pusi = false) : ¬(Pays s ∧ s.ts.pusi = true) :=
  fun hstart => Bool.false_ne_true (hpusi.symm.trans hstart.2)

section

variable {s : State} (h : Accepted s)
include h

theorem packetCounted_lastCc : (packetCounted s).asm.lastCc = lastCcRef s := by
  by_cases hpay : HasPayload s.ts.afc
  · exact (if_pos hpay).trans (if_pos ⟨h, hpay⟩).symm
  · exact (if_neg hpay).trans (if_neg fun hboth => hpay hboth.2).symm

theorem packetCounted_stuffTotal (hno : ¬(Pays s ∧ s.ts.pusi = true)) :
    (packetCounted s).asm.stuffTotal.toNat = stuffTotalRef s := by
  rw [stuffTotalRef, if_neg (not_not_intro h), if_neg hno, ← packetStuff_toNat s]
  exact BitVec.toNat_add _ _

theorem headerRead_stuffTotal (hstart : Pays s ∧ s.ts.pusi = true) :
    (headerRead s).asm.stuffTotal.toNat = stuffTotalRef s := by
  rw [stuffTotalRef, if_neg (not_not_intro h), if_pos hstart, ← packetStuff_toNat s]
  rfl

theorem packetCounted_port (hno : ¬(Pays s ∧ s.ts.pusi = true)) : (packetCounted s).port = absorbPortRef s := by
  rw [absorbPortRef, if_neg (not_not_intro h), if_neg hno]
  rfl

theorem headerRead_port (hstart : Pays s ∧ s.ts.pusi = true) : (headerRead s).port = absorbPortRef s := by
  rw [absorbPortRef, if_neg (not_not_intro h), if_pos hstart]
  rfl

end

section

variable {s : State} {x : State × Result} (hrow : AbsorbRow s x)
include hrow

theorem AbsorbRow.lastCc_eq : x.1.asm.lastCc = lastCcRef s := by
  cases hrow with
  | unexpectedId hpid => exact (if_neg fun h => hpid h.1.1).symm
  | lostContinuity _ hactive hcc => exact (if_neg fun h => not_accepted_of_lost hactive hcc h.1).symm
  | goodStart h | continuation h =>
    rw [finishUnit_asm]
    exact packetCounted_lastCc h
  | noPayload h | badStart h | overflow h | outOfSync h => exact packetCounted_lastCc h

theorem AbsorbRow.stuffTotal_eq : x.1.asm.stuffTotal.toNat = stuffTotalRef s := by
  cases hrow with
  | unexpectedId hpid => exact (if_pos fun h => hpid h.1).symm
  | lostContinuity _ hactive hcc => exact (if_pos (not_accepted_of_lost hactive hcc)).symm
  | noPayload h hpays => exact packetCounted_stuffTotal h fun hstart => hpays hstart.1
  | badStart h hpays hpusi => exact headerRead_stuffTotal h ⟨hpays, hpusi⟩
  | goodStart h hpays hpusi =>
    rw [finishUnit_asm]
    exact headerRead_stuffTotal h ⟨hpays, hpusi⟩
  | continuation h _ hpusi =>
    rw [finishUnit_asm]
    exact packetCounted_stuffTotal h (not_start_of_pusi hpusi)
  | overflow h _ hpusi | outOfSync h _ hpusi => exact packetCounted_stuffTotal h (not_start_of_pusi hpusi)

end

/-- Settles O30: row by row, RESULT, ACTIVE and BUF_LEN are the table's, and LAST_CC and STUFF_TOTAL are as it says. -/
theorem absorbTransitionTable : Obligations.AbsorbTransitionTable := by
  intro s hlegal _
  have hrow := absorbBody_row s
  exact ⟨_, exec_absorb s, hrow.matches_transition hlegal, hrow.lastCc_eq, hrow.stuffTotal_eq⟩

/-! ### What ABSORB writes -/

/-- A copy from inside the frame draws nothing. -/
theorem State.append_port (s : State) {src n : Nat} (h : src + n ≤ 188) : (s.append src n).port = s.port :=
  appendLoop_port _ h _ _ _

theorem State.append_read? (s : State) {src n : Nat} (h : src + n ≤ 188) (i : Nat) :
    Memory.read? (s.append src n).pesBuf.cells i =
      if s.asm.bufLen.toNat ≤ i ∧ i < s.asm.bufLen.toNat + n then some (s.frame.byte (src + (i - s.asm.bufLen.toNat)))
      else Memory.read? s.pesBuf.cells i := appendLoop_read? _ h _ _ _ _

theorem unitStarted_read? {s : State} (hpays : Pays s) (i : Nat) :
    Memory.read? (unitStarted s).pesBuf.cells i =
      if i < lenRef s then some (s.frame.byte (offRef s + i)) else Memory.read? s.pesBuf.cells i := by
  have hempty : (headerRead s).asm.bufLen.toNat = 0 := rfl
  have happend := (headerRead s).append_read? (offRef_add_lenRef hpays).le i
  simp only [hempty, headerRead_frame, headerRead_pesBuf, Nat.zero_le, true_and, Nat.zero_add, Nat.sub_zero] at happend
  exact happend

theorem unitContinued_read? {s : State} (hpays : Pays s) (i : Nat) :
    Memory.read? (unitContinued s).pesBuf.cells i =
      if s.asm.bufLen.toNat ≤ i ∧ i < s.asm.bufLen.toNat + lenRef s then
        some (s.frame.byte (offRef s + (i - s.asm.bufLen.toNat)))
      else Memory.read? s.pesBuf.cells i :=
  (packetCounted s).append_read? (offRef_add_lenRef hpays).le i

theorem lenRef_toNat (s : State) : (BitVec.ofNat 16 (lenRef s)).toNat = lenRef s := by
  have hle := lenRef_le s
  rw [BitVec.toNat_ofNat]
  omega

theorem ofNat_lenRef_ne_zero {s : State} (hpays : Pays s) : BitVec.ofNat 16 (lenRef s) ≠ 0 := by
  have hpos := lenRef_pos hpays
  rw [← BitVec.toNat_inj.ne, lenRef_toNat]
  exact hpos.ne'

section

variable {s : State} {x : State × Result} (hrow : AbsorbRow s x)
include hrow

theorem AbsorbRow.pes_eq (hno : ¬(Accepted s ∧ Pays s ∧ s.ts.pusi = true)) : x.1.pes = s.pes := by
  cases hrow with
  | badStart h hpays hpusi | goodStart h hpays hpusi => exact absurd ⟨h, hpays, hpusi⟩ hno
  | continuation => exact finishUnit_pes _ _ _
  | unexpectedId | lostContinuity | noPayload | overflow | outOfSync => rfl

/-- A result without a count appends nothing. -/
theorem AbsorbRow.pesBuf_eq (hvalue : x.2.value = 0) : x.1.pesBuf = s.pesBuf := by
  cases hrow with
  | goodStart _ hpays | continuation _ hpays =>
    rw [finishUnit_value] at hvalue
    exact absurd hvalue (ofNat_lenRef_ne_zero hpays)
  | badStart => exact headerRead_pesBuf s
  | unexpectedId | lostContinuity | noPayload | overflow | outOfSync => rfl

/-- A result with a count n appends the n bytes below the new BUF_LEN. -/
theorem AbsorbRow.read?_outside (hlegal : s.params.legal) {i : Nat}
    (hi : ¬(x.1.asm.bufLen.toNat - x.2.value.toNat ≤ i ∧ i < x.1.asm.bufLen.toNat)) :
    Memory.read? x.1.pesBuf.cells i = Memory.read? s.pesBuf.cells i := by
  cases hrow with
  | goodStart _ hpays =>
    simp only [finishUnit_asm, finishUnit_value, lenRef_toNat, unitStarted_bufLen] at hi
    rw [finishUnit_pesBuf, unitStarted_read? hpays, if_neg (by omega)]
  | continuation _ hpays _ _ hfits =>
    simp only [finishUnit_asm, finishUnit_value, lenRef_toNat, unitContinued_bufLen hlegal hfits] at hi
    rw [finishUnit_pesBuf, unitContinued_read? hpays, if_neg (by omega)]
  | badStart => rw [headerRead_pesBuf]
  | unexpectedId | lostContinuity | noPayload | overflow | outOfSync => rfl

theorem AbsorbRow.code_of_value_ne_zero (hvalue : x.2.value ≠ 0) :
    x.2.code = .started ∨ x.2.code = .continues ∨ x.2.code = .finished := by
  cases hrow with
  | goodStart => exact (finishUnit_code _ _ _).elim (fun hfinished => .inr (.inr hfinished)) .inl
  | continuation =>
    exact (finishUnit_code _ _ _).elim (fun hfinished => .inr (.inr hfinished)) fun hmore => .inr (.inl hmore)
  | unexpectedId | lostContinuity | noPayload | badStart | overflow | outOfSync => exact absurd rfl hvalue

theorem AbsorbRow.ovf_iff : x.1.ovf = true ↔ s.ovf = true ∨ x.2.code = .bufferOverflow := by
  cases hrow with
  | overflow => simp [res]
  | noPayload => cases s.asm.active <;> simp [res, packetCounted]
  | goodStart =>
    rw [finishUnit_ovf, unitStarted_ovf]
    exact (or_iff_left (finishUnit_code_ne _ _ _ (by decide) (by decide))).symm
  | continuation =>
    rw [finishUnit_ovf, unitContinued_ovf]
    exact (or_iff_left (finishUnit_code_ne _ _ _ (by decide) (by decide))).symm
  | badStart => simp [res, headerRead_ovf]
  | unexpectedId | lostContinuity | outOfSync => simp [res, packetCounted]

theorem AbsorbRow.port_eq : x.1.port = absorbPortRef s := by
  cases hrow with
  | unexpectedId hpid => exact (if_pos fun h => hpid h.1).symm
  | lostContinuity _ hactive hcc => exact (if_pos (not_accepted_of_lost hactive hcc)).symm
  | noPayload h hpays => exact packetCounted_port h fun hstart => hpays hstart.1
  | badStart h hpays hpusi => exact headerRead_port h ⟨hpays, hpusi⟩
  | goodStart h hpays hpusi =>
    rw [finishUnit_port, ← headerRead_port h ⟨hpays, hpusi⟩]
    exact (headerRead s).append_port (offRef_add_lenRef hpays).le
  | continuation h hpays hpusi =>
    rw [finishUnit_port, ← packetCounted_port h (not_start_of_pusi hpusi)]
    exact (packetCounted s).append_port (offRef_add_lenRef hpays).le
  | overflow h _ hpusi | outOfSync h _ hpusi => exact packetCounted_port h (not_start_of_pusi hpusi)

end

/-- Settles O35: TARGET_PID and what no row writes by `absorbBody_absorbFrame`, each field written row by row. -/
theorem absorbWrites : Obligations.AbsorbWrites := by
  intro s hlegal _
  have hframe := absorbBody_absorbFrame s
  have hrow := absorbBody_row s
  refine ⟨_, exec_absorb s, ?_, hframe.targetPid, hrow.pes_eq, hrow.pesBuf_eq, fun _ => hrow.read?_outside hlegal,
    hrow.code_of_value_ne_zero, hrow.ovf_iff, hrow.port_eq, hframe.port⟩
  exact congrArg (State.finish · (absorbBody s).2) hframe.state

end Sys2Proof.Machine
end

section
/-! SUPPORT. FRAME, CLEAR, NOP and the illegal words: where FRAME's body ends, that its stages do not read RESULT, and CLEAR
field by field (44_frame_and_control.md). -/

namespace Sys2Proof.Machine

open Sys2Proof.Claims

/-! ### Bodies that do not read RESULT -/

/-- The body neither reads nor writes RESULT: another RESULT before it is the only difference after it. -/
def ResultBlind (body : State → State × Result) : Prop :=
  ∀ (s : State) (r : Result), body (s.finish r) = ((body s).1.finish r, (body s).2)

/-- Such a body completes alike whatever the command before reported (10_state.md R47). -/
theorem ResultBlind.complete_finish {body : State → State × Result} (h : ResultBlind body) (s : State) (r : Result) :
    complete (body (s.finish r)) = complete (body s) := by
  rw [h s r]
  rfl

theorem finishUnit_resultBlind (more : ResultCode) (n : Nat) : ResultBlind (finishUnit · more n) := by
  intro s r
  by_cases hdone : unitComplete s.pes.pktLen s.asm.bufLen = true
  · simp only [finishUnit_complete hdone]
    exact finishUnit_complete (s := s.finish r) hdone
  · simp only [finishUnit_incomplete hdone]
    exact finishUnit_incomplete (s := s.finish r) hdone

/-- ABSORB takes the same row of its table from both states, as no row's condition is on RESULT. -/
theorem absorbBody_resultBlind : ResultBlind absorbBody := by
  intro s r
  have hrow := absorbBody_row s
  generalize absorbBody s = x at hrow ⊢
  cases hrow with
  | unexpectedId hpid => exact absorbBody_unexpectedId (s := s.finish r) hpid
  | lostContinuity hpid hactive hcc => exact absorbBody_lostContinuity (s := s.finish r) hpid hactive hcc
  | noPayload h hpays => exact absorbBody_noPayload (s := s.finish r) h hpays
  | badStart h hpays hpusi hstart => exact absorbBody_badStart (s := s.finish r) h hpays hpusi hstart
  | goodStart h hpays hpusi hstart =>
    exact (absorbBody_goodStart (s := s.finish r) h hpays hpusi hstart).trans
      (finishUnit_resultBlind .started (lenRef s) (unitStarted s) r)
  | overflow h hpays hpusi hactive hfits => exact absorbBody_overflow (s := s.finish r) h hpays hpusi hactive hfits
  | continuation h hpays hpusi hactive hfits =>
    exact (absorbBody_continuation (s := s.finish r) h hpays hpusi hactive hfits).trans
      (finishUnit_resultBlind .continues (lenRef s) (unitContinued s) r)
  | outOfSync h hpays hpusi hactive => exact absorbBody_outOfSync (s := s.finish r) h hpays hpusi hactive

/-! ### FRAME, by where it ends -/

theorem frameBody_tsFailed {s : State} (hts : (tsBody s).2.code ≠ .ok) : frameBody s = tsBody s := if_pos hts

theorem frameBody_afFailed {s : State} (hts : (tsBody s).2.code = .ok) (haf : (afBody (tsBody s).1).2.code ≠ .ok) :
    frameBody s = afBody (tsBody s).1 :=
  (if_neg (not_not_intro hts)).trans (if_pos haf)

theorem frameBody_parsed {s : State} (hts : (tsBody s).2.code = .ok) (haf : (afBody (tsBody s).1).2.code = .ok) :
    frameBody s = absorbBody (stuffBody (afBody (tsBody s).1).1).1 :=
  (if_neg (not_not_intro hts)).trans (if_neg (not_not_intro haf))

/-- Settles O40: each command of the sequence runs the body FRAME runs, from a state that differs in RESULT alone, which
AFPARSE and AFSTUFF visibly do not read and ABSORB does not by `absorbBody_resultBlind`. The premise on the draws is not
needed: both sides draw from one counter (log 3). -/
theorem frameEqualsCommandSequence : Obligations.FrameEqualsCommandSequence := by
  intro s t1 t2 t3 t4 h1 h2 h3 h4
  obtain rfl : (tsBody s).1.finish (tsBody s).2 = t1 := Host.Outcome.next.inj h1
  obtain rfl : (afBody (tsBody s).1).1.finish (afBody (tsBody s).1).2 = t2 := Host.Outcome.next.inj h2
  obtain rfl : (stuffBody (afBody (tsBody s).1).1).1.finish (stuffBody (afBody (tsBody s).1).1).2 = t3 :=
    Host.Outcome.next.inj h3
  refine ⟨fun hts => ?_, fun hts haf => ?_, fun hts haf _ => ?_⟩
  · exact congrArg complete (frameBody_tsFailed hts)
  · exact congrArg complete (frameBody_afFailed hts haf)
  · calc exec .frame s
      _ = complete (absorbBody (stuffBody (afBody (tsBody s).1).1).1) := congrArg complete (frameBody_parsed hts haf)
      _ = .next t4 := (absorbBody_resultBlind.complete_finish _ _).symm.trans h4

theorem afBody_tooLong {s : State} (h : TooLong s.frame s.ts.afc) :
    afBody s = ({ s with af := { AfRegs.zero with ctrl := s.ts.afc } }, { code := .invalidLength, value := 0 }) := by
  simp only [afBody, afParse_tooLong h]

/-- Settles O41: FRAME ends with TSPARSE's body on a wrong sync byte, with AFPARSE's on a length byte past its bound. -/
theorem frameStopsOnFailedParse : Obligations.FrameStopsOnFailedParse := by
  intro s
  constructor
  · intro hbad
    have hts := tsBody_badSync hbad
    have hframe := frameBody_tsFailed (s := s) (by simp [hts])
    exact congrArg complete (hframe.trans hts)
  · intro hsync hlong
    have hts := tsBody_sync hsync
    have haf : afBody (tsBody s).1 =
        ({ s with ts := tsRef s.frame, af := { AfRegs.zero with ctrl := (tsRef s.frame).afc } },
          { code := .invalidLength, value := 0 }) := by
      rw [hts]
      exact afBody_tooLong hlong
    have hframe := frameBody_afFailed (s := s) (by simp [hts]) (by simp [haf])
    exact congrArg complete (hframe.trans haf)

/-! ### CLEAR -/

theorem State.onBit_clearTs (s : State) (b : Bool) :
    s.onBit b State.clearTs = { s with ts := if b then TsRegs.zero else s.ts } := by cases b <;> rfl

theorem State.onBit_clearAf (s : State) (b : Bool) :
    s.onBit b State.clearAf = { s with af := if b then AfRegs.zero else s.af } := by cases b <;> rfl

theorem State.onBit_clearPes (s : State) (b : Bool) :
    s.onBit b State.clearPes = { s with pes := if b then PesRegs.zero else s.pes } := by cases b <;> rfl

theorem State.onBit_clearSticky (s : State) (b : Bool) :
    s.onBit b State.clearSticky =
      { s with
        port := { s.port with oob := if b then false else s.port.oob }
        ovf := if b then false else s.ovf } := by
  cases b <;> rfl

/-- CLEAR, each set by its own bit of the mask (44_frame_and_control.md R300). -/
theorem execClear_eq (m : Byte) (s : State) :
    execClear m s =
      .next
        { s with
          ts := if m.getLsbD 0 then TsRegs.zero else s.ts
          af := if m.getLsbD 1 then AfRegs.zero else s.af
          pes := if m.getLsbD 2 then PesRegs.zero else s.pes
          port := { s.port with oob := if m.getLsbD 3 then false else s.port.oob }
          ovf := if m.getLsbD 3 then false else s.ovf
          result := ⟨.ok, 0⟩ } := by
  rw [execClear, State.onBit_clearTs, State.onBit_clearAf, State.onBit_clearPes, State.onBit_clearSticky, complete_eq]

/-- The CLEAR word is legal and decodes to its mask, whatever PID13 holds (30_encoding.md R120). -/
theorem runCommand_clear {mask pid : Nat} (hmask : mask ≤ 255) (hpid : pid ≤ 8191) (s : State) :
    runCommand (BitVec.ofNat 32 (8 + mask * 256 + pid * 65536)) s = execClear (BitVec.ofNat 8 mask) s := by
  have hword : (BitVec.ofNat 32 (8 + mask * 256 + pid * 65536)).toNat = 8 + mask * 256 + pid * 65536 := by
    rw [BitVec.toNat_ofNat]
    omega
  generalize BitVec.ofNat 32 (8 + mask * 256 + pid * 65536) = w at hword ⊢
  have hop : opOf w = 8 := by unfold opOf; omega
  have himm : imm8Of w = mask := by unfold imm8Of; omega
  have hlegal : ¬IllegalWord w := by unfold IllegalWord rsv0Of rsv1Of; omega
  rw [runCommand_legal hlegal, commandOf, hop, himm]
  rfl

/-- Settles O18: CLEAR's effect by `execClear_eq`, whose bits are those of the mask as a number; the word by
`runCommand_clear`. -/
theorem clearByMask : Obligations.ClearByMask := by
  intro s mask pid hmask hpid t
  have hexec : execClear (BitVec.ofNat 8 mask) s = .next t := by
    have hnat : (BitVec.ofNat 8 mask).toNat = mask := Nat.mod_eq_of_lt (by omega)
    rw [execClear_eq]
    simp only [getLsbD_eq_bitOf, hnat]
    rfl
  exact ⟨hexec, (runCommand_clear hmask hpid s).trans hexec⟩

/-! ### Illegal words, NOP and the worked words -/

/-- A pending CMD write runs its word. -/
theorem step_cmdPending {s : State} {w : Word} {rest : List HostEvent} (h : CmdPending s w rest) :
    step s = runCommand w { s with hostQueue := rest } := step_command h.1 h.2

/-- Settles O3: the step runs the word, an illegal one by `runCommand_illegal`, any other by its decoding. -/
theorem illegalCommandChangesOnlyResult : Obligations.IllegalCommandChangesOnlyResult := by
  intro s w rest hcmd
  rw [step_cmdPending hcmd]
  exact ⟨fun h => runCommand_illegal h _, fun h => ⟨_, decode_legal h, runCommand_legal h _⟩⟩

/-- A word with OP = 0 and its reserved fields 0 runs NOP, whatever IMM8 and PID13 hold (30_encoding.md R91). -/
theorem runCommand_nop {w : Word} (hop : opOf w = 0) (hrsv0 : rsv0Of w = 0) (hrsv1 : rsv1Of w = 0) (s : State) :
    runCommand w s = .next s := by
  have hlegal : ¬IllegalWord w := by unfold IllegalWord; omega
  rw [runCommand_legal hlegal, commandOf, hop]
  rfl

/-- Settles O16: NOP's meaning is the state it gets, and its word runs it by `runCommand_nop`. -/
theorem nopChangesNothing : Obligations.NopChangesNothing := by
  refine ⟨fun _ => rfl, fun s w rest hcmd hop hrsv0 hrsv1 => ?_⟩
  rw [step_cmdPending hcmd, runCommand_nop hop hrsv0 hrsv1]

/-- Settles O5: each word by the rule of R91 it falls under, its fields computed. -/
theorem workedDecodeExamples : Obligations.WorkedDecodeExamples := by
  refine ⟨?_, ?_, ?_, ?_, ?_, ?_, ?_, ?_, ?_⟩
  · exact decode_legal ((not_illegalWord_iff _).2 (by decide))
  · exact decode_reservedBits (by decide)
  · exact decode_reservedOpcode (by decide) (by decide)
  · exact decode_legal ((not_illegalWord_iff _).2 (by decide))
  · exact decode_offsetPastFrame (by decide) (by decide) (by decide)
  · exact decode_reservedBits (by decide)
  · exact decode_legal ((not_illegalWord_iff _).2 (by decide))
  · exact decode_reservedBits (by decide)
  · exact decode_legal ((not_illegalWord_iff _).2 (by decide))

end Sys2Proof.Machine
end

section
/-! SUPPORT. The legal states: each command's body leaves a legal state and a legal RESULT, so every step keeps the
invariant (10_state.md sections 2 to 6, 20_memory.md section 3). -/

namespace Sys2Proof.Machine

open Sys2Proof.Claims

/-! ### The decoded sets are legal -/

theorem AfRegs.legal_ctrl (c : BitVec 2) : ({ AfRegs.zero with ctrl := c } : AfRegs).Legal :=
  ⟨fun _ => Nat.zero_le _, fun _ => Nat.zero_le _, fun _ => rfl, Nat.zero_le _⟩

theorem AfRegs.clocksExact_ctrl (c : BitVec 2) : ({ AfRegs.zero with ctrl := c } : AfRegs).ClocksExact := by
  constructor <;> simp [AfRegs.zero]

/-- The length byte of a field within its bound keeps the bound of its control value (10_state.md R28). -/
theorem afFieldRef_legal {f : FrameBuf} {c : BitVec 2} (hc : HasField c) (hfit : ¬TooLong f c) :
    (afFieldRef f c).Legal := by
  unfold TooLong at hfit
  refine ⟨fun h3 => ?_, fun h2 => ?_, fun hnone => ?_, Nat.zero_le _⟩
  · exact Nat.not_lt.1 fun hlong => hfit (.inl ⟨h3, hlong⟩)
  · exact Nat.not_lt.1 fun hlong => hfit (.inr ⟨h2, hlong⟩)
  · change c = 0 ∨ c = 1 at hnone
    rcases hc with rfl | rfl <;> exact absurd hnone (by decide)

/-- A clock's value is the combination of its parts, consumed or not (41_adaptation_field.md R178). -/
theorem fieldOf_clock (fits : Bool) {b e : Nat} (hb : b < 2 ^ 33) (he : e < 2 ^ 9) :
    (fieldOf fits 42 (b * 300 + e)).toNat = (fieldOf fits 33 b).toNat * 300 + (fieldOf fits 9 e).toNat := by
  cases fits
  · simp
  · simp only [fieldOf_true, BitVec.toNat_ofNat]
    rw [Nat.mod_eq_of_lt hb, Nat.mod_eq_of_lt he, Nat.mod_eq_of_lt (by omega)]

theorem afFieldRef_clocksExact (f : FrameBuf) (c : BitVec 2) : (afFieldRef f c).ClocksExact :=
  ⟨fieldOf_clock _ (baseNat_lt f 2) (extNat_lt f 2), fieldOf_clock _ (baseNat_lt f _) (extNat_lt f _)⟩

theorem tsRef_sync (f : FrameBuf) : (tsRef f).sync = f.byte 0 := by
  rw [← tsFields_eq_tsRef]
  rfl

theorem pesBasicRef_basic {f : FrameBuf} {d p : Nat} {ext : Bool} (hshort : ext = true → pktNat f d p < 3) :
    (pesBasicRef f d p ext).Basic := by
  refine ⟨rfl, ⟨rfl, rfl, rfl, rfl, rfl⟩, fun hext => ?_⟩
  rw [pesBasicRef, ← pktBytes_eq, pktBytes_toNat]
  exact hshort hext

theorem pesExtRef_extended {f : FrameBuf} {d p : Nat} (hpkt : 3 ≤ pktNat f d p) : (pesExtRef f d p).Extended := by
  have hhdl := pb_lt f d p 8
  refine ⟨rfl, ?_, ?_, fun hpts => ?_, fun hdts => ?_⟩
  · rwa [pesExtRef, pesBasicRef, ← pktBytes_eq, pktBytes_toNat]
  · rw [pesExtRef, BitVec.toNat_ofNat, byteOr_toNat]
    omega
  · rw [pesExtRef, getLsbD_eq_bitOf, byteOr_toNat, bitOf_seven_iff (pb_lt f d p 7)]
    by_contra hflag
    simp [pesExtRef, hflag] at hpts
  · have hflags := pb_lt f d p 7
    have hboth : 192 ≤ pb f d p 7 := by
      by_contra hflag
      simp [pesExtRef, hflag] at hdts
    rw [pesExtRef, getLsbD_eq_bitOf, getLsbD_eq_bitOf, byteOr_toNat, bitOf_seven_iff hflags]
    exact ⟨by omega, by rw [bitOf, decide_eq_true_iff]; omega⟩

/-- Every row of the parse leaves a legal PES set (42_pes_header.md R202 to R206). -/
theorem pesRef_legal (f : FrameBuf) (d p : Nat) : (pesRef f d p).Legal := by
  by_cases hstart : startNat f d p = 1
  · by_cases hav : AudioVideo f d p
    · by_cases hpkt : pktNat f d p < 3
      · rw [pesRef_short hstart hav hpkt]
        exact .inr ⟨rfl, iff_of_true rfl hav, .inl (pesBasicRef_basic fun _ => hpkt)⟩
      · have hlong := Nat.not_lt.1 hpkt
        rw [pesRef_extended hstart hav hlong]
        exact .inr ⟨rfl, iff_of_true rfl hav, .inr (pesExtRef_extended hlong)⟩
    · rw [pesRef_noExtension hstart hav]
      exact .inr ⟨rfl, iff_of_false Bool.false_ne_true hav, .inl (pesBasicRef_basic nofun)⟩
  · rw [pesRef_badStart hstart]
    exact .inl rfl

/-! ### The results are legal -/

theorem res_legal_of_success {c : ResultCode} (hc : c.isSuccess = true) (n : Nat) : (res c n).Legal :=
  ⟨fun hinput : c = .invalidInput => by simp [hinput, ResultCode.isSuccess] at hc, fun _ => hc⟩

theorem res_legal_zero {c : ResultCode} (hc : c ≠ .invalidInput) : (res c 0).Legal := ⟨hc, fun h => absurd rfl h⟩

theorem finishUnit_result_legal (s : State) {more : ResultCode} (hmore : more.isSuccess = true) (n : Nat) :
    (finishUnit s more n).2.Legal := by
  unfold finishUnit
  split
  · exact res_legal_of_success rfl n
  · exact res_legal_of_success hmore n

/-! ### What an update asks of the invariant -/

namespace State.Inv

variable {s t : State} (h : s.Inv)
include h

/-- With both memories and the parameters kept, BUF_LEN no longer than before, and bytes in a unit in progress, only
the register sets are left to check. -/
theorem of_kept (hkept : t.params = s.params ∧ t.frame = s.frame ∧ t.pesBuf = s.pesBuf)
    (hlen : t.asm.bufLen.toNat ≤ s.asm.bufLen.toNat) (hactive : t.asm.active = true → 0 < t.asm.bufLen.toNat)
    (hts : t.TsLegal) (haf : t.af.Legal) (hclocks : t.af.ClocksExact) (hpes : t.pes.Legal) (hresult : t.result.Legal) :
    t.Inv := by
  obtain ⟨hparams, hframe, hpesBuf⟩ := hkept
  obtain ⟨hwf, hbelow, hpesWf, hpesBelow⟩ := h.mem
  have hunit : t.UnitStored := fun i hi => hpesBuf ▸ h.unit i (hi.trans_le hlen)
  exact ⟨hparams ▸ h.params, ⟨hframe ▸ hwf, hframe ▸ hbelow, hpesBuf ▸ hpesWf, hparams ▸ hpesBuf ▸ hpesBelow⟩, hts,
    haf, hclocks, hpes, ⟨hparams ▸ hlen.trans h.asm.bufLen, hactive⟩, hunit, hresult⟩

theorem withTs {r : TsRegs} (hr : ({ s with ts := r } : State).TsLegal) : ({ s with ts := r } : State).Inv :=
  h.of_kept ⟨rfl, rfl, rfl⟩ le_rfl h.asm.active hr h.af h.clocks h.pes h.result

theorem withAf {a : AfRegs} (ha : a.Legal) (hclocks : a.ClocksExact) (q : Port) :
    ({ s with af := a, port := q } : State).Inv :=
  h.of_kept ⟨rfl, rfl, rfl⟩ le_rfl h.asm.active h.ts ha hclocks h.pes h.result

theorem withPes {r : PesRegs} (hr : r.Legal) (q : Port) : ({ s with pes := r, port := q } : State).Inv :=
  h.of_kept ⟨rfl, rfl, rfl⟩ le_rfl h.asm.active h.ts h.af h.clocks hr h.result

theorem finish {r : Result} (hr : r.Legal) : (s.finish r).Inv :=
  h.of_kept ⟨rfl, rfl, rfl⟩ le_rfl h.asm.active h.ts h.af h.clocks h.pes hr

theorem setActive {v : Bool} (hv : v = true → 0 < s.asm.bufLen.toNat) : (s.setActive v).Inv :=
  h.of_kept ⟨rfl, rfl, rfl⟩ le_rfl hv h.ts h.af h.clocks h.pes h.result

theorem setOvf : s.setOvf.Inv := h.of_kept ⟨rfl, rfl, rfl⟩ le_rfl h.asm.active h.ts h.af h.clocks h.pes h.result

theorem clearSticky : s.clearSticky.Inv :=
  h.of_kept ⟨rfl, rfl, rfl⟩ le_rfl h.asm.active h.ts h.af h.clocks h.pes h.result

theorem clearTs : s.clearTs.Inv := h.withTs (.inr rfl)

theorem clearAf : s.clearAf.Inv := h.withAf (AfRegs.legal_ctrl 0) (AfRegs.clocksExact_ctrl 0) s.port

theorem clearPes : s.clearPes.Inv := h.withPes (.inl rfl) s.port

theorem onBit {op : State → State} (hop : (op s).Inv) (b : Bool) : (s.onBit b op).Inv := by
  cases b
  · exact h
  · exact hop

/-- The assembler between units. -/
theorem idle {a : AsmRegs} (hlen : a.bufLen = 0) (hidle : a.active = false) : ({ s with asm := a } : State).Inv :=
  h.of_kept ⟨rfl, rfl, rfl⟩ (by simp [hlen]) (fun hactive => absurd (hidle.symm.trans hactive) Bool.false_ne_true) h.ts
    h.af h.clocks h.pes h.result

/-- The host's side is not in the invariant. -/
theorem withHost (q : List HostEvent) (v : Word) (b : Bool) :
    ({ s with hostQueue := q, busData := v, inReset := b } : State).Inv :=
  h.of_kept ⟨rfl, rfl, rfl⟩ le_rfl h.asm.active h.ts h.af h.clocks h.pes h.result

theorem append_bufLen {n : Nat} (src : Nat) (hcap : s.asm.bufLen.toNat + n ≤ s.params.pesBufCap) :
    (s.append src n).asm.bufLen.toNat = s.asm.bufLen.toNat + n := by
  have hmax := h.params.2
  rw [State.append_asm, BitVec.toNat_add, BitVec.toNat_ofNat]
  omega

/-- A copy that fits keeps the memory's form and stores every byte that BUF_LEN grows by. -/
theorem append {src n : Nat} (hsrc : src + n ≤ 188) (hcap : s.asm.bufLen.toNat + n ≤ s.params.pesBufCap) :
    (s.append src n).Inv := by
  have hlen := h.append_bufLen src hcap
  obtain ⟨hwf, hbelow, hpesWf, hpesBelow⟩ := h.mem
  refine ⟨h.params, ⟨hwf, hbelow, appendLoop_wf _ _ _ _ _ hpesWf, appendLoop_below _ _ _ _ hpesBelow hcap⟩, h.ts, h.af,
    h.clocks, h.pes, ⟨hlen ▸ hcap, fun hactive => ?_⟩, fun i hi => ?_, h.result⟩
  · have hbytes := h.asm.active hactive
    omega
  · rw [s.append_read? hsrc]
    split
    · rfl
    · exact h.unit i (by omega)

theorem writeFrameWord {k : Nat} (hk : k < 47) (w : Word) : (writeFrameWord s k w).Inv := by
  obtain ⟨hwf, hbelow, hpesWf, hpesBelow⟩ := h.mem
  exact ⟨h.params, ⟨writeFrameWord_wf s k w hwf, writeFrameWord_below s w hk hbelow, hpesWf, hpesBelow⟩, h.ts, h.af,
    h.clocks, h.pes, ⟨h.asm.bufLen, h.asm.active⟩, h.unit, h.result⟩

end State.Inv

/-! ### The words a CMD write carries, and the bodies -/

/-- A word runs the command it decodes to, or it is an illegal command. -/
theorem runCommand_cases {w : Word} {s t : State} (h : runCommand w s = .next t) :
    (∃ i, decode w = .ok i ∧ exec i s = .next t) ∨ t = illegalCommand s := by
  unfold runCommand at h
  split at h
  · next i hdecode => exact .inl ⟨i, hdecode, h⟩
  · exact .inr (Host.Outcome.next.inj h).symm

/-- A body's state is legal, and so is the RESULT it leaves to write. -/
structure BodyLegal (x : State × Result) : Prop where
  state : x.1.Inv
  result : x.2.Legal

theorem BodyLegal.of_complete {x : State × Result} {t : State} (hx : BodyLegal x)
    (h : complete x = .next t) : t.Inv := by
  cases h
  exact hx.state.finish hx.result

theorem afBody_noField {s : State} (hc : ¬HasField s.ts.afc) :
    afBody s = ({ s with af := { AfRegs.zero with ctrl := s.ts.afc } }, res .ok 0) := by
  simp only [afBody, afParse_noField s.frame hc]
  rfl

theorem afBody_field {s : State} (hc : HasField s.ts.afc) (hfit : ¬TooLong s.frame s.ts.afc) :
    afBody s =
      ({ s with af := afFieldRef s.frame s.ts.afc, port := afPortRef s.frame s.port },
        res .ok (fb s.frame 4 + 1)) := by
  simp only [afBody, afParse_field hc hfit]

theorem State.withHeader_params (s : State) (h : PesRegs) (q : Port) : (s.withHeader h q).params = s.params := rfl

theorem headerRead_params (s : State) : (headerRead s).params = s.params := State.withHeader_params _ _ _

theorem stuffBody_eq (s : State) :
    stuffBody s =
      ({ s with
          af := { s.af with stuff := BitVec.ofNat 8 (stuffRef s.frame s.af s.port.draws) }
          port := stuffPortRef s.frame s.af s.port },
        res .ok (stuffRef s.frame s.af s.port.draws)) := by
  simp only [stuffBody, stuffing_eq, res]

section

variable {s : State} (h : s.Inv)
include h

theorem tsBody_legal : BodyLegal (tsBody s) := by
  by_cases hsync : s.frame.byte 0 = s.params.syncByte
  · rw [tsBody_sync hsync]
    exact ⟨h.withTs (.inl ((tsRef_sync s.frame).trans hsync)), res_legal_of_success (c := .ok) rfl 4⟩
  · rw [tsBody_badSync hsync]
    exact ⟨h.withTs (.inr rfl), res_legal_zero (c := .invalidSync) (by decide)⟩

theorem afBody_legal : BodyLegal (afBody s) := by
  by_cases hc : HasField s.ts.afc
  · by_cases hlong : TooLong s.frame s.ts.afc
    · rw [afBody_tooLong hlong]
      exact ⟨h.withAf (AfRegs.legal_ctrl _) (AfRegs.clocksExact_ctrl _) _,
        res_legal_zero (c := .invalidLength) (by decide)⟩
    · rw [afBody_field hc hlong]
      exact ⟨h.withAf (afFieldRef_legal hc hlong) (afFieldRef_clocksExact _ _) _, res_legal_of_success rfl _⟩
  · rw [afBody_noField hc]
    exact ⟨h.withAf (AfRegs.legal_ctrl _) (AfRegs.clocksExact_ctrl _) _, res_legal_of_success rfl 0⟩

theorem stuffBody_legal : BodyLegal (stuffBody s) := by
  have hle := stuffRef_le_len s.frame s.af s.port.draws
  obtain ⟨hwith, hno, hnone, -⟩ := h.af
  obtain ⟨hpcr, hopcr⟩ := h.clocks
  have hstuff : (BitVec.ofNat 8 (stuffRef s.frame s.af s.port.draws)).toNat ≤ s.af.len.toNat := by
    rw [BitVec.toNat_ofNat]
    exact (Nat.mod_le _ _).trans hle
  rw [stuffBody_eq]
  have haf : ({ s.af with stuff := BitVec.ofNat 8 (stuffRef s.frame s.af s.port.draws) } : AfRegs).Legal :=
    ⟨hwith, hno, hnone, hstuff⟩
  exact ⟨h.withAf haf ⟨hpcr, hopcr⟩ _, res_legal_of_success rfl _⟩

theorem pesBody_legal {p : Nat} (hp : p ≤ 188) : BodyLegal (pesBody p s) := by
  rw [pesBody_eq s hp]
  refine ⟨h.withPes (pesRef_legal _ _ _) _, ?_⟩
  unfold pesResultRef
  split
  · exact ⟨by simp, fun _ => rfl⟩
  · exact res_legal_zero (c := .invalidStartCode) (by decide)

theorem packetCounted_inv : (packetCounted s).Inv :=
  h.of_kept ⟨rfl, rfl, rfl⟩ le_rfl h.asm.active h.ts h.af h.clocks h.pes h.result

theorem headerRead_inv : (headerRead s).Inv :=
  State.Inv.withPes ((packetCounted_inv h).idle rfl rfl) (pesRef_legal _ _ _) _

theorem unitStarted_inv (hpays : Pays s) : (unitStarted s).Inv := by
  have hread := headerRead_inv h
  have hroom : (headerRead s).asm.bufLen.toNat + lenRef s ≤ (headerRead s).params.pesBufCap := by
    have hempty : (headerRead s).asm.bufLen.toNat = 0 := rfl
    rw [headerRead_params]
    have hcap := h.params.1
    have hn := lenRef_le s
    omega
  refine (hread.append (offRef_add_lenRef hpays).le hroom).setActive fun _ => ?_
  rw [hread.append_bufLen (offRef s) hroom]
  exact Nat.add_pos_right _ (lenRef_pos hpays)

theorem unitContinued_inv (hpays : Pays s) (hfits : Fits s) : (unitContinued s).Inv :=
  (packetCounted_inv h).append (offRef_add_lenRef hpays).le hfits

theorem finishUnit_inv (more : ResultCode) (n : Nat) : (finishUnit s more n).1.Inv := by
  unfold finishUnit
  split
  · exact h.setActive nofun
  · exact h

/-- Every row of ABSORB's table ends in a legal state and a legal RESULT. -/
theorem AbsorbRow.legal {x : State × Result} (hrow : AbsorbRow s x) : BodyLegal x := by
  cases hrow with
  | unexpectedId => exact ⟨h, res_legal_zero (by decide)⟩
  | lostContinuity => exact ⟨h.setActive nofun, res_legal_zero (by decide)⟩
  | noPayload => exact ⟨packetCounted_inv h, res_legal_zero (by split <;> decide)⟩
  | badStart => exact ⟨headerRead_inv h, res_legal_zero (by decide)⟩
  | goodStart _ hpays => exact ⟨finishUnit_inv (unitStarted_inv h hpays) _ _, finishUnit_result_legal _ rfl _⟩
  | overflow => exact ⟨((packetCounted_inv h).setActive (v := false) nofun).setOvf, res_legal_zero (by decide)⟩
  | continuation _ hpays _ _ hfits =>
    exact ⟨finishUnit_inv (unitContinued_inv h hpays hfits) _ _, finishUnit_result_legal _ rfl _⟩
  | outOfSync => exact ⟨packetCounted_inv h, res_legal_zero (by decide)⟩

theorem absorbBody_legal : BodyLegal (absorbBody s) := (absorbBody_row s).legal h

theorem frameBody_legal : BodyLegal (frameBody s) := by
  have hts := tsBody_legal h
  have haf := afBody_legal hts.state
  rcases frameBody_cases s with ⟨-, hf⟩ | ⟨-, -, hf⟩ | ⟨-, -, hf⟩ <;> rw [hf]
  · exact hts
  · exact haf
  · exact absorbBody_legal (stuffBody_legal haf.state).state

/-! ### The commands and the steps -/

theorem illegalCommand_inv : (illegalCommand s).Inv := h.finish (res_legal_zero (by decide))

theorem execPesparse_inv {off : Byte} {t : State} (hrun : execPesparse off s = .next t) : t.Inv := by
  rcases execPesparse_cases off s with ⟨hin, heq⟩ | ⟨-, heq⟩ <;> rw [heq] at hrun
  · exact (pesBody_legal h hin.le).of_complete hrun
  · cases hrun
    exact illegalCommand_inv h

theorem execClear_inv {mask : Byte} {t : State} (hrun : execClear mask s = .next t) : t.Inv := by
  have hts := h.onBit h.clearTs (mask.getLsbD 0)
  have haf := hts.onBit hts.clearAf (mask.getLsbD 1)
  have hpes := haf.onBit haf.clearPes (mask.getLsbD 2)
  exact BodyLegal.of_complete ⟨hpes.onBit hpes.clearSticky (mask.getLsbD 3), res_legal_of_success rfl 0⟩ hrun

theorem exec_inv {i : Instr} {t : State} (hrun : exec i s = .next t) : t.Inv := by
  cases i with
  | nop => cases hrun; exact h
  | init pid => exact BodyLegal.of_complete ⟨h.clearPes.idle rfl rfl, res_legal_of_success rfl 0⟩ hrun
  | tsparse => exact (tsBody_legal h).of_complete hrun
  | afparse => exact (afBody_legal h).of_complete hrun
  | afstuff => exact (stuffBody_legal h).of_complete hrun
  | pesparse off => exact execPesparse_inv h hrun
  | absorb => exact (absorbBody_legal h).of_complete hrun
  | frame => exact (frameBody_legal h).of_complete hrun
  | clear mask => exact execClear_inv h hrun

theorem runCommand_inv {w : Word} {t : State} (hrun : runCommand w s = .next t) : t.Inv := by
  rcases runCommand_cases hrun with ⟨i, -, hexec⟩ | rfl
  · exact exec_inv h hexec
  · exact illegalCommand_inv h

theorem afterReset_inv : s.afterReset.Inv :=
  ⟨h.params, ⟨rfl, rfl, rfl, rfl⟩, .inr rfl, AfRegs.legal_ctrl 0, AfRegs.clocksExact_ctrl 0, .inl rfl,
    ⟨Nat.zero_le _, nofun⟩, nofun, ⟨nofun, fun hvalue => absurd rfl hvalue⟩⟩

end

/-- Settles O53: the events that run no command keep all the invariant speaks of, write one FRAME word, or reset; a
command keeps it by `exec_inv`. -/
theorem stepKeepsLegal : Obligations.StepKeepsLegal := by
  intro s t h hstep
  rcases step_cases hstep with ⟨-, rfl⟩ | ⟨_, rest, v, -, -, -, rfl⟩ | ⟨w, rest, -, -, hrun⟩ |
    ⟨_, w, rest, k, -, hk, -, -, rfl⟩ | ⟨_, rest, -, rfl⟩ | ⟨rest, -, rfl⟩ | ⟨rest, -, -, rfl⟩
  · exact h
  · exact h.withHost rest v s.inReset
  · exact runCommand_inv (h.withHost rest s.busData s.inReset) hrun
  · exact (h.withHost rest s.busData s.inReset).writeFrameWord hk w
  · exact h.withHost rest s.busData s.inReset
  · exact h.withHost rest s.busData true
  · exact afterReset_inv (h.withHost rest s.busData s.inReset)

theorem configParams_legal : Config.params.legal := by
  have hextra := Config.pesBufCapExtra.isLt
  simp only [Params.legal, Config.params]
  omega

/-- Settles O52: every register is 0, both memories are empty, and the capacity is within its bounds. -/
theorem resetIsLegal : Obligations.ResetIsLegal :=
  ⟨configParams_legal, ⟨rfl, rfl, rfl, rfl⟩, .inr rfl, AfRegs.legal_ctrl 0, AfRegs.clocksExact_ctrl 0, .inl rfl,
    ⟨Nat.zero_le _, nofun⟩, nofun, ⟨nofun, fun hvalue => absurd rfl hvalue⟩⟩

end Sys2Proof.Machine
end

section
/-! SUPPORT. The encoder's words: each decodes to its command (30_encoding.md section 1), and the assembler's lines
give them as numbers (section 6). -/

namespace Sys2Proof.Machine

open Sys2Proof.Claims

/-! ### The round trip -/

section

variable (op : BitVec 4) (imm8 : Byte) (pid13 : BitVec 13)

@[simp] theorem opOf_commandWord : opOf (commandWord op imm8 pid13) = op.toNat := by
  rw [← fieldOp_toNat_opOf, fieldOp_commandWord]

@[simp] theorem imm8Of_commandWord : imm8Of (commandWord op imm8 pid13) = imm8.toNat := by
  rw [← fieldImm8_toNat_imm8Of, fieldImm8_commandWord]

@[simp] theorem ofNat_pid13Of_commandWord : BitVec.ofNat 13 (pid13Of (commandWord op imm8 pid13)) = pid13 := by
  rw [← fieldPid13_eq_ofNat, fieldPid13_commandWord]

theorem not_illegalWord_commandWord (hop : op.toNat ≤ 8) (hoff : op.toNat = 5 → imm8.toNat ≤ 187) :
    ¬IllegalWord (commandWord op imm8 pid13) := by
  rw [not_illegalWord_iff, ← reservedFields_iff, opOf_commandWord, imm8Of_commandWord]
  exact ⟨by simp, hop, hoff⟩

end

/-- A well-formed command's word is legal: the bound on PESPARSE's offset is the one R91 tests. -/
theorem not_illegalWord_encode {i : Instr} (h : i.wellFormed = true) : ¬IllegalWord (encode i) := by
  cases i with
  | pesparse off => exact not_illegalWord_commandWord _ _ _ (by decide) fun _ => of_decide_eq_true h
  | nop | init _ | tsparse | afparse | afstuff | absorb | frame | clear _ =>
    exact not_illegalWord_commandWord _ _ _ (by decide) nofun

/-- The word's OP and its operand are the command's. -/
theorem commandOf_encode (i : Instr) : commandOf (encode i) = i := by
  cases i <;> simp [encode, commandOf]

/-- Settles O1: a well-formed command's word is legal, so it decodes to the command of its fields. -/
theorem decodeEncodeRoundTrip : Obligations.DecodeEncodeRoundTrip := by
  intro i hwf
  rw [decode_legal (not_illegalWord_encode hwf), commandOf_encode]

/-! ### The assembler's words -/

/-- A command word is the number of its fields. -/
theorem commandWord_eq_ofNat (op : BitVec 4) (imm8 : Byte) (pid13 : BitVec 13) :
    commandWord op imm8 pid13 = BitVec.ofNat 32 (op.toNat + imm8.toNat * 256 + pid13.toNat * 65536) := by
  rw [← commandWord_toNat, BitVec.ofNat_toNat, BitVec.setWidth_eq]

theorem encode_init {n : Nat} (h : n ≤ 8191) : encode (.init (.ofNat 13 n)) = .ofNat 32 (1 + n * 65536) := by
  have hn : (BitVec.ofNat 13 n).toNat = n := Nat.mod_eq_of_lt (by omega)
  rw [encode, commandWord_eq_ofNat, hn]
  simp

theorem encode_pesparse {n : Nat} (h : n ≤ 187) : encode (.pesparse (.ofNat 8 n)) = .ofNat 32 (5 + n * 256) := by
  rw [encode, commandWord_eq_ofNat, offset_toNat h]
  simp

theorem encode_clear {n : Nat} (h : n ≤ 255) : encode (.clear (.ofNat 8 n)) = .ofNat 32 (8 + n * 256) := by
  have hn : (BitVec.ofNat 8 n).toNat = n := Nat.mod_eq_of_lt (by omega)
  rw [encode, commandWord_eq_ofNat, hn]
  simp

/-- A line with an operand: the command's word within the range, an assembly error outside it (30_encoding.md R131).
-/
theorem asmOperand_encode {w max n : Nat} {command : BitVec w → Instr} {word : Word}
    (hword : n ≤ max → encode (command (.ofNat w n)) = word) :
    ((asmOperand n max w).map command).map encode = if n ≤ max then some word else none := by
  unfold asmOperand
  split
  · next hin => exact congrArg some (hword hin)
  · rfl

/-- Settles O6: the ranges by `asmOperand_encode`, the words of the commands without operand computed. -/
theorem assemblerOperandRanges : Obligations.AssemblerOperandRanges :=
  ⟨fun _ => asmOperand_encode encode_init, fun _ => asmOperand_encode encode_pesparse,
    fun _ => asmOperand_encode encode_clear, rfl, rfl, rfl, rfl, rfl, rfl⟩

end Sys2Proof.Machine
end

section
/-! SUPPORT. The host's view: what each register reads as (20_memory.md R65), and the steps the host's events are: a
CMD write, the reset input, and who writes the frame buffer (20_memory.md R62, R68; 70_reset_and_hazards.md R350,
R351). -/

namespace Sys2Proof.Machine

open Sys2Proof.Claims

/-! ### The registers as numbers -/

theorem wordAt_register (s : State) (r : Reg) : wordAt s r.offset = (r.read s).toNat := by
  simp only [wordAt, readWord, placeAt_register]

theorem zeros_toNat (n : Nat) : (zeros n).toNat = 0 := BitVec.toNat_zero

theorem bit_toNat (b : Bool) : (bit b).toNat = b1 b := by cases b <;> rfl

theorem ResultCode.toByte_toNat (c : ResultCode) : c.toByte.toNat = codeNumber c := by cases c <;> rfl

theorem statusWord_toNat (s : State) :
    (statusWord s).toNat = b1 s.asm.active + b1 s.port.oob * 2 + b1 s.ovf * 4 + s.asm.lastCc.toNat * 16 := by
  simp only [statusWord, toNat_append_eq, zeros_toNat, bit_toNat]
  omega

theorem lowWord_toNat {n : Nat} (v : BitVec n) : (v.extractLsb' 0 32).toNat = v.toNat % 2 ^ 32 := by
  rw [BitVec.extractLsb'_toNat, Nat.shiftRight_zero]

theorem clockXWord_toNat (base : BitVec 33) (ext : BitVec 9) :
    (clockXWord base ext).toNat = base.toNat / 2 ^ 32 + ext.toNat * 2 ^ 16 := by
  have hbase := base.isLt
  simp only [clockXWord, toNat_append_eq, zeros_toNat, BitVec.extractLsb'_toNat, Nat.shiftRight_eq_div_pow]
  omega

theorem clockHiWord_toNat (v : BitVec 42) : (clockHiWord v).toNat = v.toNat / 2 ^ 32 := by
  have hv := v.isLt
  simp only [clockHiWord, toNat_append_eq, zeros_toNat, BitVec.extractLsb'_toNat, Nat.shiftRight_eq_div_pow]
  omega

theorem stampHiWord_toNat (v : BitVec 33) : (stampHiWord v).toNat = v.toNat / 2 ^ 32 := by
  have hv := v.isLt
  simp only [stampHiWord, toNat_append_eq, zeros_toNat, BitVec.extractLsb'_toNat, Nat.shiftRight_eq_div_pow]
  omega

theorem bufCap_toNat {p : Params} (h : p.legal) : (BitVec.ofNat 32 p.pesBufCap).toNat = p.pesBufCap := by
  have hmax := h.2
  rw [BitVec.toNat_ofNat]
  omega

/-- Settles O15: a register reads as `Reg.read`, whose concatenated fields add up at their places; the words that
split a wide field are the lemmas above. -/
theorem registerMapValues : Obligations.RegisterMapValues := by
  intro s hlegal
  have hread := wordAt_register s
  refine ⟨hread .cmd, (hread .result).trans ?_, (hread .status).trans (statusWord_toNat s), (hread .target).trans ?_,
    (hread .tsA).trans ?_, (hread .tsB).trans ?_, (hread .afA).trans ?_, (hread .afB).trans ?_,
    (hread .pcrBaseLo).trans (lowWord_toNat _), (hread .pcrX).trans (clockXWord_toNat _ _),
    (hread .pcrLo).trans (lowWord_toNat _), (hread .pcrHi).trans (clockHiWord_toNat _),
    (hread .opcrBaseLo).trans (lowWord_toNat _), (hread .opcrX).trans (clockXWord_toNat _ _),
    (hread .opcrLo).trans (lowWord_toNat _), (hread .opcrHi).trans (clockHiWord_toNat _), (hread .pesA).trans ?_,
    (hread .pesB).trans ?_, (hread .pesC).trans ?_, (hread .ptsLo).trans (lowWord_toNat _),
    (hread .ptsHi).trans (stampHiWord_toNat _), (hread .dtsLo).trans (lowWord_toNat _),
    (hread .dtsHi).trans (stampHiWord_toNat _), hread .bufLen, hread .stuffTotal,
    (hread .bufCap).trans (bufCap_toNat hlegal)⟩
  all_goals
    simp only [Reg.read, toNat_append_eq, zeros_toNat, bit_toNat, ResultCode.toByte_toNat]
    omega

/-! ### CMD writes and the reset input -/

/-- Settles O7: the step runs the pending word, which runs what it decodes to; an empty queue is the first line of
`step`. -/
theorem stepRunsDecodedCommand : Obligations.StepRunsDecodedCommand := by
  constructor
  · intro s w rest i hcmd hdecode
    rw [step_cmdPending hcmd, runCommand, hdecode]
  · intro s hq
    rw [step, hq]

theorem step_releaseReset {s : State} {rest : List HostEvent} (hr : s.inReset = true)
    (hq : s.hostQueue = .releaseReset :: rest) : step s = .next (State.afterReset { s with hostQueue := rest }) := by
  simp only [step, hq, serve, hr, if_true]

theorem busAccess_inReset {s : State} (hr : s.inReset = true) (a : Addr) (size : AccessSize) (served : Out) :
    busAccess s a size served = .refused .accessDuringReset := if_pos hr

/-- STATUS reads 0 when no unit is in progress, LAST_CC is 0 and neither sticky flag is set (10_state.md R48). -/
theorem readWord_status_zero {s : State} (hasm : s.asm = AsmRegs.zero) (hoob : s.port.oob = false)
    (hovf : s.ovf = false) : readWord s 0x008 = 0 := by
  apply BitVec.eq_of_toNat_eq
  have hstatus : wordAt s 0x008 = _ := (wordAt_register s .status).trans (statusWord_toNat s)
  rwa [hasm, hoob, hovf] at hstatus

/-- Settles O9: the release leaves `State.afterReset`, whose memories list no byte under a new reset number. -/
theorem resetReleaseState : Obligations.ResetReleaseState := by
  intro s rest hr hq
  refine ⟨_, step_releaseReset hr hq, rfl, rfl, rfl, rfl, rfl, rfl, rfl, readWord_status_zero rfl rfl rfl, rfl,
    fun _ => rfl, fun _ => rfl, ?_, ?_⟩
  · exact Nat.succ_ne_self s.frame.epoch
  · exact Nat.succ_ne_self s.pesBuf.epoch

/-- Settles O11: the reset input's own events, and `busAccess_inReset` for the accesses. -/
theorem noAccessDuringReset : Obligations.NoAccessDuringReset := by
  intro s a size w rest
  refine ⟨fun hq => ?_, fun hr hq => ?_, fun hr hq => ?_⟩
  · simp only [step, hq, serve]
  · rcases hq with hq | hq <;> simp only [step, hq, serve]
    · exact busAccess_inReset hr a size _
    · exact busAccess_inReset hr a size _
  · simp [step, hq, serve, hr]

end Sys2Proof.Machine
end

section
/-! SUPPORT. AFSTUFF after AFPARSE of the same frame: the bytes the count uses are those before AFPARSE's final
offset, or more than LEN where a flagged sub-field did not fit (41_adaptation_field.md R175). -/

namespace Sys2Proof.Machine

open Sys2Proof.Claims

/-- Every flagged sub-field of fixed size is consumed. -/
def fixedFit (f : FrameBuf) : Bool :=
  (!afBit f 4 || pcrFits f) && (!afBit f 3 || opcrFits f) && (!afBit f 2 || spliceFits f)

/-- The private data is consumed if flagged. -/
def privFit (f : FrameBuf) : Bool := !afBit f 1 || privFits f

/-- The extension is consumed if flagged. -/
def extFit (f : FrameBuf) : Bool := !afBit f 0 || extFits f

theorem allFit_eq (f : FrameBuf) : allFit f = (fixedFit f && privFit f && extFit f) := rfl

/-- A sub-field that fits if flagged is consumed exactly when flagged. -/
theorem flag_and_room_eq_flag {flag room : Bool} (h : (!flag || (flag && room)) = true) : (flag && room) = flag := by
  cases flag
  · rfl
  · exact h

/-- Where the fixed-size sub-fields fit, each is consumed exactly when it is flagged. -/
theorem fits_eq_flags_of_fixedFit {f : FrameBuf} (h : fixedFit f = true) :
    pcrFits f = afBit f 4 ∧ opcrFits f = afBit f 3 ∧ spliceFits f = afBit f 2 := by
  obtain ⟨hpcr_opcr, hsplice⟩ := (Bool.and_eq_true _ _).mp h
  obtain ⟨hpcr, hopcr⟩ := (Bool.and_eq_true _ _).mp hpcr_opcr
  exact ⟨flag_and_room_eq_flag hpcr, flag_and_room_eq_flag hopcr, flag_and_room_eq_flag hsplice⟩

section

variable {f : FrameBuf} (c : BitVec 2) (hlen : 1 ≤ fb f 4)
include hlen

theorem bitOf_afFieldRef_flags (k : Nat) : bitOf (afFieldRef f c).flags.toNat k = afBit f k := by
  rw [afFieldRef_flags c hlen, afBit, decide_eq_true hlen, Bool.true_and]

theorem fixedSize_afFieldRef :
    fixedSize (afFieldRef f c) =
      (if afBit f 4 then 6 else 0) + (if afBit f 3 then 6 else 0) + if afBit f 2 then 1 else 0 := by
  simp only [fixedSize, bitOf_afFieldRef_flags c hlen]

theorem privSize_afFieldRef :
    privSize f (afFieldRef f c) = if afBit f 1 then 1 + fb f (6 + fixedSize (afFieldRef f c)) else 0 := by
  simp only [privSize, bitOf_afFieldRef_flags c hlen]

/-- The fixed-size sub-fields end where the count puts them when they all fit. -/
theorem offPriv_of_fixedFit (h : fixedFit f = true) : offPriv f = 2 + fixedSize (afFieldRef f c) := by
  obtain ⟨hpcr, hopcr, hsplice⟩ := fits_eq_flags_of_fixedFit h
  rw [fixedSize_afFieldRef c hlen, offPriv, offSplice, offOpcr, hpcr, hopcr, hsplice]
  split <;> omega

/-- The count uses up the field when one of them does not fit. -/
theorem len_lt_of_not_fixedFit (h : fixedFit f = false) : fb f 4 < 1 + fixedSize (afFieldRef f c) := by
  rw [fixedSize_afFieldRef c hlen]
  cases hpcr : afBit f 4 <;> cases hopcr : afBit f 3 <;> cases hsplice : afBit f 2 <;>
    simp_all [fixedFit, offSplice, offOpcr, pcrFits, opcrFits, spliceFits] <;> omega

section

variable (hfixed : fixedFit f = true)
include hfixed

theorem offExt_of_privFit (h : privFit f = true) :
    offExt f = 2 + fixedSize (afFieldRef f c) + privSize f (afFieldRef f c) := by
  have hoff := offPriv_of_fixedFit c hlen hfixed
  have hindex : 4 + offPriv f = 6 + fixedSize (afFieldRef f c) := by omega
  rw [offExt, privSize_afFieldRef c hlen, hindex, hoff]
  cases hpriv : afBit f 1
  · simp [privFits, hpriv]
  · have hfits : privFits f = true := by simpa [privFit, hpriv] using h
    simp [hfits]

theorem len_lt_of_not_privFit (h : privFit f = false) :
    fb f 4 < 1 + fixedSize (afFieldRef f c) + privSize f (afFieldRef f c) := by
  have hoff := offPriv_of_fixedFit c hlen hfixed
  have hindex : 4 + offPriv f = 6 + fixedSize (afFieldRef f c) := by omega
  have hpriv : afBit f 1 = true := by
    by_contra hclear
    simp [privFit, hclear] at h
  have hlong : fb f 4 < offPriv f + fb f (4 + offPriv f) := by simpa [privFit, privFits, hpriv] using h
  rw [privSize_afFieldRef c hlen, hpriv, if_pos rfl, ← hindex]
  omega

variable (hpriv : privFit f = true) (hmax : fb f 4 ≤ 184) (d : Nat)
include hpriv hmax

/-- Past the private data, LEN less the bytes used is what AFPARSE's final offset leaves, or nothing. A length byte
drawn past the frame changes neither: at frame index 188 the bytes before it use up the field (41_adaptation_field.md
R168). -/
theorem len_sub_extSize :
    fb f 4 - (1 + fixedSize (afFieldRef f c) + privSize f (afFieldRef f c) + extSize f (afFieldRef f c) d) =
      if extFit f then fb f 4 + 1 - offEnd f else 0 := by
  have hoff := offExt_of_privFit c hlen hfixed hpriv
  have hindex : extIndex f (afFieldRef f c) = 4 + offExt f := by
    unfold extIndex
    omega
  rw [extSize, bitOf_afFieldRef_flags c hlen, hindex]
  cases hext : afBit f 0
  · simp [extFit, extFits, hext, offEnd]
    omega
  · by_cases hfits : extFits f = true
    · have hroom : offExt f + fb f (4 + offExt f) ≤ fb f 4 := by simpa [extFits, hext] using hfits
      simp only [extFit, hext, hfits, offEnd, if_true, Bool.not_true, Bool.or_true]
      split <;> omega
    · have hlong : fb f 4 < offExt f + fb f (4 + offExt f) := by simpa [extFits, hext] using hfits
      have hmiss : extFit f = false := by simpa [extFit, hext] using hfits
      simp only [hmiss, if_true, Bool.false_eq_true, if_false]
      split <;> omega

end

/-- The stuffing AFSTUFF counts of the AF set AFPARSE left (41_adaptation_field.md R175). -/
theorem stuffRef_afFieldRef (hc : HasField c) (hmax : fb f 4 ≤ 184) (d : Nat) :
    stuffRef f (afFieldRef f c) d = if allFit f then fb f 4 + 1 - offEnd f else 0 := by
  rw [stuffRef, if_pos (walks_afFieldRef hc hlen), afFieldRef_len, allFit_eq]
  cases hfixed : fixedFit f
  · have hused := len_lt_of_not_fixedFit c hlen hfixed
    exact Nat.sub_eq_zero_of_le (by omega)
  · cases hpriv : privFit f
    · have hused := len_lt_of_not_privFit c hlen hfixed hpriv
      exact Nat.sub_eq_zero_of_le (by omega)
    · exact len_sub_extSize c hlen hfixed hpriv hmax d

end

/-- Settles O23: AFPARSE leaves `afFieldRef`, whose stuffing `stuffRef_afFieldRef` gives. -/
theorem stuffingAfterAfparse : Obligations.StuffingAfterAfparse := by
  intro s hc hfit hlen
  have hmax := len_le_of_not_tooLong hc hfit
  have hcount := stuffRef_afFieldRef s.ts.afc hlen hc hmax (afPortRef s.frame s.port).draws
  have hsmall := stuffRef_le_len s.frame (afFieldRef s.frame s.ts.afc) (afPortRef s.frame s.port).draws
  rw [hcount, afFieldRef_len] at hsmall
  refine ⟨_, _, exec_afparse_field hc hfit, exec_afstuff _, congrArg (res .ok) hcount, ?_⟩
  exact (congrArg (fun v => (BitVec.ofNat 8 v).toNat) hcount).trans (Nat.mod_eq_of_lt (by omega))

end Sys2Proof.Machine
end

section
/-! SUPPORT. ABSORB's rows read field by field: what each stores and when a unit can overflow or finish; and ABSORB of
packet after packet, whose counters the assembler follows (43_pes_assembler.md R252 to R259, R269). -/

namespace Sys2Proof.Machine

open Sys2Proof.Claims

/-! ### The payload stored -/

/-- ABSORB leaves the fields its body leaves. -/
theorem exec_absorb_fields {s : State} {x : State × Result} (h : absorbBody s = x) :
    ∃ t, exec .absorb s = .next t ∧ t.asm = x.1.asm ∧ t.pes = x.1.pes ∧ t.pesBuf = x.1.pesBuf :=
  ⟨_, congrArg complete h, rfl, rfl, rfl⟩

/-- Settles O31: the row of the good start code, its RAM by `unitStarted_read?`. -/
theorem absorbUnitStartStoresPayload : Obligations.AbsorbUnitStartStoresPayload := by
  intro s h hpays hpusi hstart
  obtain ⟨t, hrun, hasm, hpes, hbuf⟩ := exec_absorb_fields (absorbBody_goodStart h hpays hpusi hstart)
  rw [finishUnit_pesBuf] at hbuf
  refine ⟨t, hrun, ?_, hpes.trans (finishUnit_pes _ _ _), fun k hk => ?_, fun k hk => ?_⟩
  · rw [hasm, finishUnit_asm]
    exact unitStarted_bufLen s
  · rw [hbuf, unitStarted_read? hpays, if_pos hk]
  · rw [hbuf, unitStarted_read? hpays, if_neg (Nat.not_lt.2 hk)]

/-- Settles O32: the row of the continuation that fits, its RAM by `unitContinued_read?`. -/
theorem absorbContinuationStoresPayload : Obligations.AbsorbContinuationStoresPayload := by
  intro s hlegal h hpays hpusi hactive hfits
  obtain ⟨t, hrun, hasm, hpes, hbuf⟩ := exec_absorb_fields (absorbBody_continuation h hpays hpusi hactive hfits)
  rw [finishUnit_pesBuf] at hbuf
  refine ⟨t, hrun, ?_, hpes.trans (finishUnit_pes _ _ _), fun k hk => ?_, fun i hi => ?_⟩
  · rw [hasm, finishUnit_asm]
    exact unitContinued_bufLen hlegal hfits
  · rw [hbuf, unitContinued_read? hpays, if_pos (by omega), Nat.add_sub_cancel_left]
  · rw [hbuf, unitContinued_read? hpays, if_neg hi]

/-- Settles O33: the row of the continuation that does not fit. -/
theorem absorbOverflowAppendsNothing : Obligations.AbsorbOverflowAppendsNothing := by
  intro s h hpays hpusi hactive hfits
  have hrun := exec_absorb s
  rw [absorbBody_overflow h hpays hpusi hactive hfits] at hrun
  refine ⟨_, hrun, rfl, rfl, ?_, rfl, rfl, rfl⟩
  simp [packetCounted, hpays.1]

/-! ### Which units can overflow or finish -/

/-- Only the row of the continuation that does not fit reports BUFFER_OVERFLOW. -/
theorem AbsorbRow.code_ne_bufferOverflow {s : State} {x : State × Result} (hrow : AbsorbRow s x) (hfits : Fits s) :
    x.2.code ≠ .bufferOverflow := by
  cases hrow with
  | overflow _ _ _ _ hfull => exact absurd hfits hfull
  | noPayload => cases hactive : s.asm.active <;> simp [res]
  | goodStart | continuation => exact finishUnit_code_ne _ _ _ (by decide) (by decide)
  | unexpectedId | lostContinuity | badStart | outOfSync => simp [res]

/-- Settles O36: below the declared length there is room for a whole packet, as no payload is longer than 184 bytes.
-/
theorem boundedUnitsNeverOverflow : Obligations.BoundedUnitsNeverOverflow := by
  intro s hlegal _ hshort
  have hpkt := s.pes.pktLen.isLt
  have hcap := hlegal.1
  have hlen := lenRef_le s
  have hfits : Fits s := by
    unfold Fits
    omega
  exact ⟨_, exec_absorb s, (absorbBody_row s).code_ne_bufferOverflow hfits⟩

theorem not_unitComplete_of_unbounded {pktLen : BitVec 16} (h : pktLen = 0) (bufLen : BitVec 32) :
    ¬unitComplete pktLen bufLen = true := by
  rw [unitComplete_iff, h]
  exact fun hcomplete => hcomplete.1 rfl

/-- Without a declared length only a unit start can finish. -/
theorem AbsorbRow.code_ne_finished {s : State} {x : State × Result} (hrow : AbsorbRow s x) (hpkt : s.pes.pktLen = 0)
    (hno : ¬(s.ts.pusi = true ∧ Pays s)) : x.2.code ≠ .finished := by
  cases hrow with
  | goodStart _ hpays hpusi => exact absurd ⟨hpusi, hpays⟩ hno
  | continuation =>
    rw [finishUnit_incomplete (not_unitComplete_of_unbounded (show (unitContinued s).pes.pktLen = 0 from hpkt) _)]
    simp [res]
  | noPayload => cases hactive : s.asm.active <;> simp [res]
  | unexpectedId | lostContinuity | badStart | overflow | outOfSync => simp [res]

/-- Settles O37: no row but a unit start's finishes without a declared length or writes the PES set. -/
theorem unboundedUnitNeverFinishes : Obligations.UnboundedUnitNeverFinishes := by
  intro s hpkt hno
  have hrow := absorbBody_row s
  exact ⟨_, exec_absorb s, hrow.code_ne_finished hpkt hno, hrow.pes_eq fun hstart => hno ⟨hstart.2.2, hstart.2.1⟩⟩

/-! ### Packet after packet -/

/-- ABSORB of one packet. -/
def absorbPacket (s : State) (p : Packet) : State := (absorbBody (feed s p)).1.finish (absorbBody (feed s p)).2

theorem absorbRun_cons (s : State) (p : Packet) (ps : List Packet) :
    absorbRun s (p :: ps) =
      (absorbRun (absorbPacket s p) ps).map fun r => (r.1, (absorbPacket s p).result.code :: r.2) := rfl

theorem absorbPacket_targetPid (s : State) (p : Packet) : (absorbPacket s p).asm.targetPid = s.asm.targetPid :=
  (absorbBody_absorbFrame (feed s p)).targetPid

/-- A run over one list, then over another. -/
theorem absorbRun_append {s t : State} {ps : List Packet} {before : List ResultCode}
    (h : absorbRun s ps = some (t, before)) (qs : List Packet) :
    absorbRun s (ps ++ qs) = (absorbRun t qs).map fun r => (r.1, before ++ r.2) := by
  induction ps generalizing s before with
  | nil =>
    cases h
    simp
  | cons p ps ih =>
    rw [absorbRun_cons, Option.map_eq_some_iff] at h
    obtain ⟨⟨u, codes⟩, hrun, heq⟩ := h
    cases heq
    rw [List.cons_append, absorbRun_cons, ih hrun, Option.map_map]
    rfl

theorem absorbRun_targetPid {s t : State} {ps : List Packet} {codes : List ResultCode}
    (h : absorbRun s ps = some (t, codes)) : t.asm.targetPid = s.asm.targetPid := by
  induction ps generalizing s codes with
  | nil => cases h; rfl
  | cons p ps ih =>
    rw [absorbRun_cons, Option.map_eq_some_iff] at h
    obtain ⟨⟨u, rest⟩, hrun, heq⟩ := h
    cases heq
    exact (ih hrun).trans (absorbPacket_targetPid s p)

/-- A payload packet with the counter that follows passes the continuity check (43_pes_assembler.md R248). -/
theorem ccOk_iff_next {s : State} (hpay : HasPayload s.ts.afc) : CcOk s ↔ s.ts.cc = s.asm.lastCc + 1 := by
  rw [ccOk_iff, expectedCc, if_pos ((afcHasPayload_iff _).2 hpay)]

/-- ABSORB of a payload packet of the target whose counter follows, if a unit is in progress: no continuity loss, and
the counter is the new baseline. -/
theorem absorbPacket_next {s : State} {p : Packet} (hpid : p.ts.pid = s.asm.targetPid) (hpay : HasPayload p.ts.afc)
    (hcc : s.asm.active = true → p.ts.cc = s.asm.lastCc + 1) :
    (absorbPacket s p).result.code ≠ .lostContinuity ∧ (absorbPacket s p).asm.lastCc = p.ts.cc := by
  have hrow := absorbBody_row (feed s p)
  have haccepted : Accepted (feed s p) := ⟨hpid, fun hactive => (ccOk_iff_next hpay).2 (hcc hactive)⟩
  refine ⟨hrow.code_ne_lostContinuity ?_, hrow.lastCc_eq.trans (if_pos ⟨haccepted, hpay⟩)⟩
  cases hactive : s.asm.active
  · exact .inl hactive
  · exact .inr (haccepted.2 hactive)

/-- ABSORB of a payload packet of the target with a wrong counter, during a unit: the loss, and Idle. -/
theorem absorbPacket_gap {s : State} {p : Packet} (hpid : p.ts.pid = s.asm.targetPid) (hpay : HasPayload p.ts.afc)
    (hactive : s.asm.active = true) (hcc : p.ts.cc ≠ s.asm.lastCc + 1) :
    (absorbPacket s p).result.code = .lostContinuity ∧ (absorbPacket s p).asm.active = false := by
  have hbody := absorbBody_lostContinuity (s := feed s p) hpid hactive (mt (ccOk_iff_next hpay).1 hcc)
  rw [absorbPacket, hbody]
  exact ⟨rfl, rfl⟩

/-- A list of consecutive payload packets is absorbed without a continuity loss: the packet absorbed last holds the
counter that the next one follows. -/
theorem absorbRun_consecutive {s : State} {ps : List Packet} {c : BitVec 4}
    (hps : Consecutive s.asm.targetPid c ps) (hcc : s.asm.active = true → c = s.asm.lastCc + 1) :
    ∃ t codes, absorbRun s ps = some (t, codes) ∧ ResultCode.lostContinuity ∉ codes := by
  induction ps generalizing s c with
  | nil => exact ⟨s, [], rfl, List.not_mem_nil⟩
  | cons p ps ih =>
    obtain ⟨hpid, hpay, rfl, hrest⟩ := hps
    obtain ⟨hcode, hlast⟩ := absorbPacket_next hpid hpay hcc
    obtain ⟨t, codes, hrun, hnone⟩ := ih ((absorbPacket_targetPid s p).symm ▸ hrest) fun _ => hlast ▸ rfl
    refine ⟨t, _ :: codes, by rw [absorbRun_cons, hrun]; rfl, ?_⟩
    rw [List.mem_cons, not_or]
    exact ⟨hcode.symm, hnone⟩

/-- Settles O38: `absorbRun_consecutive`, by induction on the list. -/
theorem noGapNoContinuityLoss : Obligations.NoGapNoContinuityLoss :=
  fun _ _ _ hps hcc => absorbRun_consecutive hps hcc

/-- Settles O39: the packet after the gap is the loss and leaves Idle, from where the rest is again without a loss. -/
theorem oneGapOneContinuityLoss : Obligations.OneGapOneContinuityLoss := by
  intro s t ps qs c d before hps hcc hrun hactive hqs hne hgap
  obtain ⟨t', before', hrun', hbefore⟩ := absorbRun_consecutive hps hcc
  cases hrun.symm.trans hrun'
  rw [← absorbRun_targetPid hrun] at hqs
  cases qs with
  | nil => exact absurd rfl hne
  | cons q qs =>
    obtain ⟨hpid, hpay, rfl, hrest⟩ := hqs
    obtain ⟨hlost, hidle⟩ := absorbPacket_gap hpid hpay hactive hgap
    obtain ⟨u, after, hafter, hnone⟩ := absorbRun_consecutive ((absorbPacket_targetPid t q).symm ▸ hrest)
      fun hbusy => absurd (hidle.symm.trans hbusy) Bool.false_ne_true
    refine ⟨u, after, ?_, hbefore, hnone⟩
    rw [absorbRun_append hrun, absorbRun_cons, hafter, hlost]
    rfl

end Sys2Proof.Machine
end

section
/-! SUPPORT. FRAME: it ends after a failed parse or with ABSORB of the decoded packet, and each thing it may write is
read off those three ends (44_frame_and_control.md R290 to R293); and the unit of two payload-only frames
(43_pes_assembler.md R268). -/

namespace Sys2Proof.Machine

open Sys2Proof.Claims

/-! ### The decoded packet -/

/-- The state ABSORB gets in FRAME: the frame's TS set and AF set in place (44_frame_and_control.md R290). -/
def frameDecoded (s : State) : State := (stuffBody (afBody (tsBody s).1).1).1

theorem frameDecoded_port (s : State) : s.port.Reaches (frameDecoded s).port := by
  have hts : (tsBody s).1.port = s.port := FrameBuf.tsParse_port _ _ _
  have haf := afBody_port (tsBody s).1
  rw [hts] at haf
  exact haf.trans (stuffBody_port _)

theorem afBody_code_ok {s : State} (hfit : ¬TooLong s.frame s.ts.afc) : (afBody s).2.code = .ok := by
  by_cases hc : HasField s.ts.afc
  · rw [afBody_field hc hfit]
    rfl
  · rw [afBody_noField hc]
    rfl

section

variable {s : State} (hsync : s.frame.byte 0 = s.params.syncByte)
include hsync

theorem frameDecoded_ts : (frameDecoded s).ts = tsRef s.frame := by
  change (tsBody s).1.ts = _
  rw [tsBody_sync hsync]

/-- Without an adaptation field the AF set is empty, and nothing is stuffed or drawn. -/
theorem frameDecoded_noField (hc : ¬HasField (tsRef s.frame).afc) :
    frameDecoded s =
      { s with ts := tsRef s.frame, af := { AfRegs.zero with ctrl := (tsRef s.frame).afc } } := by
  have hwalks : ¬Walks { AfRegs.zero with ctrl := (tsRef s.frame).afc } := fun h => hc h.1
  rw [frameDecoded, tsBody_sync hsync, afBody_noField hc, stuffBody_eq]
  simp only [stuffRef, stuffPortRef, hwalks, false_and, if_false]
  rfl

/-- With one it is AFPARSE's, but for the STUFF that AFSTUFF writes. -/
theorem frameDecoded_field (hc : HasField (tsRef s.frame).afc) (hfit : ¬TooLong s.frame (tsRef s.frame).afc) :
    { (frameDecoded s).af with stuff := 0 } = afFieldRef s.frame (tsRef s.frame).afc := by
  rw [frameDecoded, tsBody_sync hsync, afBody_field hc hfit, stuffBody_eq]
  rfl

end

/-! ### Where FRAME ends -/

/-- What FRAME's body can end in: a failed parse, or ABSORB of the decoded packet. -/
inductive FrameRow (s : State) : State × Result → Prop
  | badSync (hsync : s.frame.byte 0 ≠ s.params.syncByte) :
    FrameRow s ({ s with ts := { TsRegs.zero with sync := s.frame.byte 0 } }, res .invalidSync 0)
  | tooLong (hsync : s.frame.byte 0 = s.params.syncByte) (hlong : TooLong s.frame (tsRef s.frame).afc) :
    FrameRow s
      ({ s with ts := tsRef s.frame, af := { AfRegs.zero with ctrl := (tsRef s.frame).afc } }, res .invalidLength 0)
  | absorbed (hsync : s.frame.byte 0 = s.params.syncByte) (hfit : ¬TooLong s.frame (tsRef s.frame).afc) :
    FrameRow s (absorbBody (frameDecoded s))

theorem frameBody_absorbed {s : State} (hsync : s.frame.byte 0 = s.params.syncByte)
    (hfit : ¬TooLong s.frame (tsRef s.frame).afc) : frameBody s = absorbBody (frameDecoded s) := by
  have hts : (tsBody s).2.code = .ok := by rw [tsBody_sync hsync]
  have haf : (afBody (tsBody s).1).2.code = .ok := by
    rw [tsBody_sync hsync]
    exact afBody_code_ok hfit
  exact frameBody_parsed hts haf

theorem frameBody_row (s : State) : FrameRow s (frameBody s) := by
  by_cases hsync : s.frame.byte 0 = s.params.syncByte
  · by_cases hlong : TooLong s.frame (tsRef s.frame).afc
    · have hts := tsBody_sync hsync
      have haf := afBody_tooLong (s := (tsBody s).1) (by rw [hts]; exact hlong)
      rw [frameBody_afFailed (by rw [hts]) (by simp [haf]), haf, hts]
      exact .tooLong hsync hlong
    · rw [frameBody_absorbed hsync hlong]
      exact .absorbed hsync hlong
  · have hts := tsBody_badSync hsync
    rw [frameBody_tsFailed (by simp [hts]), hts]
    exact .badSync hsync

theorem exec_frame {s : State} {x : State × Result} (h : frameBody s = x) :
    exec .frame s = .next (x.1.finish x.2) := congrArg complete h

/-- TSPARSE, AFPARSE and AFSTUFF leave the packet FRAME decodes. -/
theorem decodeSequence {s t1 t2 t3 : State} (h1 : exec .tsparse s = .next t1) (h2 : exec .afparse t1 = .next t2)
    (h3 : exec .afstuff t2 = .next t3) : ∃ r, t3 = (frameDecoded s).finish r := by
  obtain rfl : (tsBody s).1.finish (tsBody s).2 = t1 := Host.Outcome.next.inj h1
  obtain rfl : (afBody (tsBody s).1).1.finish (afBody (tsBody s).1).2 = t2 := Host.Outcome.next.inj h2
  exact ⟨_, (Host.Outcome.next.inj h3).symm⟩

/-! ### What FRAME writes -/

section

variable {s : State} {x : State × Result} (hrow : FrameRow s x)
include hrow

theorem FrameRow.state :
    x.1 = { s with
      ts := x.1.ts, af := x.1.af, asm := x.1.asm, pes := x.1.pes
      pesBuf := { s.pesBuf with cells := x.1.pesBuf.cells }, ovf := x.1.ovf, port := x.1.port } := by
  cases hrow with
  | badSync | tooLong => rfl
  | absorbed =>
    rw [(absorbBody_absorbFrame (frameDecoded s)).state]
    rfl

theorem FrameRow.targetPid : x.1.asm.targetPid = s.asm.targetPid := by
  cases hrow with
  | badSync | tooLong => rfl
  | absorbed => exact (absorbBody_absorbFrame (frameDecoded s)).targetPid

theorem FrameRow.af_eq (hbad : s.frame.byte 0 ≠ s.params.syncByte) : x.1.af = s.af := by
  cases hrow with
  | badSync => rfl
  | tooLong hsync | absorbed hsync => exact absurd hsync hbad

/-- After a failed parse only the TS and AF sets and RESULT are written. -/
theorem FrameRow.kept_of_failed (hfailed : s.frame.byte 0 ≠ s.params.syncByte ∨ TooLong s.frame (tsRef s.frame).afc) :
    x.1.asm = s.asm ∧ x.1.pes = s.pes ∧ x.1.pesBuf = s.pesBuf ∧ x.1.ovf = s.ovf ∧ x.1.port = s.port := by
  cases hrow with
  | badSync | tooLong => exact ⟨rfl, rfl, rfl, rfl, rfl⟩
  | absorbed hsync hfit => exact absurd hfailed (not_or_intro (not_not_intro hsync) hfit)

theorem FrameRow.eq_absorbBody
    (hparsed : ¬(s.frame.byte 0 ≠ s.params.syncByte ∨ TooLong s.frame (tsRef s.frame).afc)) :
    x = absorbBody (frameDecoded s) := by
  cases hrow with
  | badSync hsync => exact absurd (.inl hsync) hparsed
  | tooLong _ hlong => exact absurd (.inr hlong) hparsed
  | absorbed => rfl

theorem FrameRow.pes_eq (hpusi : (tsRef s.frame).pusi = false) : x.1.pes = s.pes := by
  cases hrow with
  | badSync | tooLong => rfl
  | absorbed hsync =>
    refine (absorbBody_row (frameDecoded s)).pes_eq fun hstart => not_start_of_pusi ?_ hstart.2
    rw [frameDecoded_ts hsync, hpusi]

theorem FrameRow.read?_outside (hlegal : s.params.legal) {i : Nat}
    (hi : ¬(x.1.asm.bufLen.toNat - x.2.value.toNat ≤ i ∧ i < x.1.asm.bufLen.toNat)) :
    Memory.read? x.1.pesBuf.cells i = Memory.read? s.pesBuf.cells i := by
  cases hrow with
  | badSync | tooLong => rfl
  | absorbed => exact (absorbBody_row (frameDecoded s)).read?_outside hlegal hi

theorem FrameRow.ovf_iff : x.1.ovf = true ↔ s.ovf = true ∨ x.2.code = .bufferOverflow := by
  cases hrow with
  | badSync | tooLong => simp [res]
  | absorbed => exact (absorbBody_row (frameDecoded s)).ovf_iff

theorem FrameRow.port_reaches : s.port.Reaches x.1.port := by
  cases hrow with
  | badSync | tooLong => exact .refl _
  | absorbed => exact (frameDecoded_port s).trans (absorbBody_absorbFrame (frameDecoded s)).port

/-- A frame of another identifier ends at ABSORB's filter: it is decoded, and no more. -/
theorem FrameRow.eq_of_otherPid
    (hparsed : ¬(s.frame.byte 0 ≠ s.params.syncByte ∨ TooLong s.frame (tsRef s.frame).afc))
    (hpid : (tsRef s.frame).pid ≠ s.asm.targetPid) : x = (frameDecoded s, res .unexpectedId 0) := by
  have hsync := not_not.1 fun hbad => hparsed (.inl hbad)
  rw [hrow.eq_absorbBody hparsed]
  refine absorbBody_unexpectedId ?_
  rw [frameDecoded_ts hsync]
  exact hpid

end

/-- Settles O42: each clause is read off the three ends of FRAME; past both parses the port is ABSORB's, which RESULT
does not enter. -/
theorem frameWrites : Obligations.FrameWrites := by
  intro s hlegal _ badSync failed
  have hrow := frameBody_row s
  refine ⟨_, exec_frame rfl, congrArg (State.finish · (frameBody s).2) hrow.state, hrow.targetPid, hrow.af_eq,
    hrow.kept_of_failed, fun hparsed hpid => ?_, hrow.pes_eq, fun _ => hrow.read?_outside hlegal, hrow.ovf_iff,
    fun hparsed t1 t2 t3 h1 h2 h3 => ?_, hrow.port_reaches⟩
  · exact congrArg Prod.snd (hrow.eq_of_otherPid hparsed hpid)
  · obtain ⟨r, rfl⟩ := decodeSequence h1 h2 h3
    rw [hrow.eq_absorbBody hparsed]
    exact (absorbBody_row (frameDecoded s)).port_eq

/-- Settles O43: the filter leaves the decoded packet. -/
theorem frameOfOtherPid : Obligations.FrameOfOtherPid := by
  intro s hsync hfit hpid
  have hbody := (frameBody_row s).eq_of_otherPid (not_or_intro (not_not_intro hsync) hfit) hpid
  have hts := frameDecoded_ts hsync
  refine ⟨_, exec_frame hbody, rfl, hts, rfl, fun hc => ?_, fun hc => ?_⟩
  · change ¬HasField (frameDecoded s).ts.afc at hc
    change (frameDecoded s).af = { AfRegs.zero with ctrl := (frameDecoded s).ts.afc }
    rw [hts] at hc ⊢
    rw [frameDecoded_noField hsync hc]
  · change HasField (frameDecoded s).ts.afc at hc
    change { (frameDecoded s).af with stuff := 0 } = afFieldRef s.frame (frameDecoded s).ts.afc
    rw [hts] at hc ⊢
    exact frameDecoded_field hsync hc hfit

/-! ### A unit of two payload-only frames -/

theorem beNat_two (f : FrameBuf) (a : Nat) : beNat f a 2 = fb f a * 256 + fb f (a + 1) := by
  simp only [beNat, Nat.add_zero]
  omega

theorem beNat_three (f : FrameBuf) (a : Nat) :
    beNat f a 3 = fb f a * 65536 + fb f (a + 1) * 256 + fb f (a + 2) := by
  simp only [beNat, Nat.add_zero]
  omega

/-- The header of a payload-only frame, field by field (30_encoding.md R92). -/
theorem tsRef_of_payloadOnly {f : FrameBuf} {sync : Byte} {pid : BitVec 13} {pusi : Bool} {cc : BitVec 4}
    (h : PayloadOnlyFrame f sync pid pusi cc) :
    (tsRef f).pid = pid ∧ (tsRef f).pusi = pusi ∧ (tsRef f).afc = 1 ∧ (tsRef f).cc = cc := by
  obtain ⟨-, hpusi, hpid, hafc, hcc⟩ := h
  simp only [← tsFields_eq_tsRef, tsFields, getLsbD_eq_bitOf, byte_toNat, ← BitVec.toNat_inj, toNat_append_eq,
    BitVec.extractLsb'_toNat, Nat.shiftRight_eq_div_pow, Nat.reducePow, Nat.div_one]
  exact ⟨hpid, hpusi, hafc, hcc⟩

section

variable {s : State} {pusi : Bool} {cc : BitVec 4}
  (h : PayloadOnlyFrame s.frame s.params.syncByte s.asm.targetPid pusi cc)
include h

theorem frameBody_payloadOnly : frameBody s = absorbBody (frameDecoded s) := by
  obtain ⟨-, -, hafc, -⟩ := tsRef_of_payloadOnly h
  refine frameBody_absorbed h.1 fun hlong => ?_
  rw [hafc] at hlong
  exact absurd (hasField_of_tooLong hlong) (by unfold HasField; decide)

/-- The payload of such a frame is its 184 bytes from index 4 on. -/
theorem offRef_payloadOnly : offRef (frameDecoded s) = 4 := by
  obtain ⟨-, -, hafc, -⟩ := tsRef_of_payloadOnly h
  refine if_neg ?_
  rw [frameDecoded_ts h.1, hafc]
  unfold HasField
  decide

theorem lenRef_payloadOnly : lenRef (frameDecoded s) = 184 := by rw [lenRef, offRef_payloadOnly h]

theorem pays_payloadOnly : Pays (frameDecoded s) := by
  obtain ⟨-, -, hafc, -⟩ := tsRef_of_payloadOnly h
  refine ⟨?_, by rw [offRef_payloadOnly h]; decide⟩
  rw [frameDecoded_ts h.1, hafc]
  exact .inl rfl

theorem started_bufLen : (unitStarted (frameDecoded s)).asm.bufLen.toNat = 184 := by
  rw [unitStarted_bufLen, lenRef_payloadOnly h]

theorem started_read? {i : Nat} (hi : i < 184) :
    Memory.read? (unitStarted (frameDecoded s)).pesBuf.cells i = some (s.frame.byte (4 + i)) := by
  rw [unitStarted_read? (pays_payloadOnly h), lenRef_payloadOnly h, offRef_payloadOnly h, if_pos hi]
  rfl

theorem continued_read? (i : Nat) :
    Memory.read? (unitContinued (frameDecoded s)).pesBuf.cells i =
      if s.asm.bufLen.toNat ≤ i ∧ i < s.asm.bufLen.toNat + 184 then
        some (s.frame.byte (4 + (i - s.asm.bufLen.toNat)))
      else Memory.read? s.pesBuf.cells i := by
  rw [unitContinued_read? (pays_payloadOnly h), lenRef_payloadOnly h, offRef_payloadOnly h]
  rfl

end

/-- The frame that starts a unit longer than its own payload. -/
theorem frameBody_started {s : State} {cc : BitVec 4}
    (h : PayloadOnlyFrame s.frame s.params.syncByte s.asm.targetPid true cc) (hidle : s.asm.active = false)
    (hstart : beNat s.frame 4 3 = 1) (hlong : 184 < 6 + beNat s.frame 8 2) :
    frameBody s = (unitStarted (frameDecoded s), res .started 184) ∧
      (unitStarted (frameDecoded s)).asm.lastCc = cc ∧
      (unitStarted (frameDecoded s)).pes.pktLen.toNat = beNat s.frame 8 2 := by
  obtain ⟨hpid, hpusi, -, hcc⟩ := tsRef_of_payloadOnly h
  have hts := frameDecoded_ts h.1
  have hpays := pays_payloadOnly h
  have hoff := offRef_payloadOnly h
  have haccepted : Accepted (frameDecoded s) := accepted_of_idle (by rw [hts]; exact hpid) hidle
  have hbyte (k : Nat) (hk : k < 184) :
      pb (frameDecoded s).frame (drawsAfterStuff (frameDecoded s)) 4 k = fb s.frame (4 + k) :=
    pb_inside _ _ (by omega)
  have hgood : GoodStart (frameDecoded s) := by
    rw [GoodStart, hoff, startNat, hbyte 0 (by decide), hbyte 1 (by decide), hbyte 2 (by decide)]
    exact (beNat_three s.frame 4).symm.trans hstart
  have hpkt : pktNat (frameDecoded s).frame (drawsAfterStuff (frameDecoded s)) 4 = beNat s.frame 8 2 := by
    rw [pktNat, hbyte 4 (by decide), hbyte 5 (by decide)]
    exact (beNat_two s.frame 8).symm
  have hnotDone : ¬DoneAtStart (frameDecoded s) := by
    rw [DoneAtStart, hoff, hpkt, lenRef_payloadOnly h]
    omega
  refine ⟨?_, ?_, ?_⟩
  · rw [frameBody_payloadOnly h, absorbBody_goodStart haccepted hpays (by rw [hts]; exact hpusi) hgood,
      finishUnit_incomplete (mt (unitStarted_complete hgood).1 hnotDone), lenRef_payloadOnly h]
  · have hlast : (unitStarted (frameDecoded s)).asm.lastCc = lastCcRef (frameDecoded s) :=
      packetCounted_lastCc haccepted
    rw [hlast, lastCcRef, if_pos ⟨haccepted, hpays.1⟩, hts, hcc]
  · rw [← hpkt, ← hoff]
    exact pesRef_pktLen hgood

/-- The frame that completes a unit of declared length. -/
theorem frameBody_finished {s : State} (hlegal : s.params.legal)
    (h : PayloadOnlyFrame s.frame s.params.syncByte s.asm.targetPid false (s.asm.lastCc + 1))
    (hactive : s.asm.active = true) (hroom : s.asm.bufLen.toNat + 184 ≤ s.params.pesBufCap)
    (hpkt : s.pes.pktLen.toNat ≠ 0) (hdone : 6 + s.pes.pktLen.toNat ≤ s.asm.bufLen.toNat + 184) :
    frameBody s = ((unitContinued (frameDecoded s)).setActive false, res .finished 184) := by
  obtain ⟨hpid, hpusi, -, hcc⟩ := tsRef_of_payloadOnly h
  have hts := frameDecoded_ts h.1
  have hpays := pays_payloadOnly h
  have hlen := lenRef_payloadOnly h
  have haccepted : Accepted (frameDecoded s) := by
    refine ⟨by rw [hts]; exact hpid, fun _ => (ccOk_iff_next hpays.1).2 ?_⟩
    rw [hts]
    exact hcc
  have hfits : Fits (frameDecoded s) := by
    rw [Fits, hlen]
    exact hroom
  have hcomplete : DoneHere (frameDecoded s) := by
    rw [DoneHere, hlen]
    exact ⟨hpkt, hdone⟩
  rw [frameBody_payloadOnly h,
    absorbBody_continuation haccepted hpays (by rw [hts]; exact hpusi) hactive hfits,
    finishUnit_complete ((unitContinued_complete (s := frameDecoded s) hlegal hfits).2 hcomplete), hlen]

theorem PesBuf.byte_of_read? {b : PesBuf} {len i : Nat} {v : Byte} (hi : i < len)
    (h : Memory.read? b.cells i = some v) : b.byte len i = v := by
  rw [PesBuf.byte, if_pos hi, h]
  rfl

/-- The first frame of the unit: STARTED, and its payload in the buffer. -/
theorem exec_frame_started {s : State} {cc : BitVec 4}
    (h : PayloadOnlyFrame s.frame s.params.syncByte s.asm.targetPid true cc) (hidle : s.asm.active = false)
    (hstart : beNat s.frame 4 3 = 1) (hlong : 184 < 6 + beNat s.frame 8 2) :
    ∃ t, exec .frame s = .next t ∧ t.result = res .started 184 ∧ t.params = s.params ∧
      t.asm.targetPid = s.asm.targetPid ∧ t.asm.active = true ∧ t.asm.lastCc = cc ∧ t.asm.bufLen.toNat = 184 ∧
      t.pes.pktLen.toNat = beNat s.frame 8 2 ∧
      ∀ i < 184, Memory.read? t.pesBuf.cells i = some (s.frame.byte (4 + i)) := by
  obtain ⟨hbody, hcc, hpkt⟩ := frameBody_started h hidle hstart hlong
  have hlen := started_bufLen h
  exact ⟨_, exec_frame hbody, rfl, rfl, rfl, rfl, hcc, hlen, hpkt, fun _ => started_read? h⟩

/-- The second: FINISHED, its payload after the first one's. -/
theorem exec_frame_finished {s : State} (hlegal : s.params.legal)
    (h : PayloadOnlyFrame s.frame s.params.syncByte s.asm.targetPid false (s.asm.lastCc + 1))
    (hactive : s.asm.active = true) (hlen : s.asm.bufLen.toNat = 184) (hlong : 184 < 6 + s.pes.pktLen.toNat)
    (hend : 6 + s.pes.pktLen.toNat ≤ 368) :
    ∃ t, exec .frame s = .next t ∧ t.result = res .finished 184 ∧ t.asm.active = false ∧ t.asm.bufLen = 368 ∧
      t.pes = s.pes ∧ (∀ i < 184, Memory.read? t.pesBuf.cells i = Memory.read? s.pesBuf.cells i) ∧
      ∀ i < 184, Memory.read? t.pesBuf.cells (184 + i) = some (s.frame.byte (4 + i)) := by
  have hcap := hlegal.1
  have hbody := frameBody_finished hlegal h hactive (by omega) (by omega) (by omega)
  have hread := continued_read? h
  have hlenAfter : (unitContinued (frameDecoded s)).asm.bufLen = 368 := by
    change s.asm.bufLen + BitVec.ofNat 32 (lenRef (frameDecoded s)) = 368
    rw [lenRef_payloadOnly h, BitVec.eq_of_toNat_eq (y := 184) hlen]
    rfl
  rw [hlen] at hread
  refine ⟨_, exec_frame hbody, rfl, rfl, hlenAfter, rfl, fun i hi => ?_, fun i hi => ?_⟩
  · exact (hread i).trans (if_neg (by omega))
  · have hin := (hread (184 + i)).trans (if_pos (by omega))
    rwa [Nat.add_sub_cancel_left] at hin

/-- Settles O44: the second frame runs in the state the first leaves, and keeps the bytes the first stored. -/
theorem twoFrameUnitAssembled : Obligations.TwoFrameUnitAssembled := by
  intro s f1 f2 cc hlegal hidle hf1 hf2 hstart hlong hend
  obtain ⟨t1, hrun1, hresult1, hparams, htarget, hactive, hcc, hlen, hpkt, hread1⟩ :=
    exec_frame_started (s := { s with frame := f1 }) hf1 hidle hstart hlong
  have hsecond : PayloadOnlyFrame f2 t1.params.syncByte t1.asm.targetPid false (t1.asm.lastCc + 1) := by
    rw [hparams, htarget, hcc]
    exact hf2
  obtain ⟨t2, hrun2, hresult2, hidle2, hlen2, hpes, hkept, hread2⟩ :=
    exec_frame_finished (s := { t1 with frame := f2 }) (hparams ▸ hlegal) hsecond hactive hlen (hpkt ▸ hlong)
      (hpkt ▸ hend)
  refine ⟨t1, t2, hrun1, hresult1, hactive, hrun2, hresult2, hidle2, hlen2, (congrArg (·.pktLen.toNat) hpes).trans hpkt,
    fun i hi => ?_, fun i hi => ?_⟩
  · exact PesBuf.byte_of_read? (by omega) ((hkept i hi).trans (hread1 i hi))
  · exact PesBuf.byte_of_read? (by omega) (hread2 i hi)

end Sys2Proof.Machine
end

section
/-! SUPPORT. Parses that draw nothing: such a reading gives the same from any port, so a parse leaves the set its
inputs determine, before and after any CLEAR (44_frame_and_control.md R302). -/

namespace Sys2Proof.Machine

/-! ### Readings without a draw -/

/-- If the reading draws nothing from one port, it gives the same from every port and leaves that port alone. -/
structure Reading.Local {α : Type} (m : Reading α) : Prop where
  tidy : m.Tidy
  same : ∀ p q : Port, (m p).2.draws = p.draws → m q = ((m p).1, q)

theorem Port.Reaches.draws_le {p q : Port} (h : p.Reaches q) : p.draws ≤ q.draws := by
  rcases h with rfl | ⟨-, hlt⟩
  · exact le_rfl
  · exact hlt.le

theorem Port.Reaches.eq_of_draws {p q : Port} (h : p.Reaches q) (hdraws : q.draws ≤ p.draws) : q = p := by
  rcases h with rfl | ⟨-, hlt⟩
  · rfl
  · omega

namespace Reading.Local

theorem pure {α : Type} (a : α) : (Pure.pure a : Reading α).Local := ⟨.pure a, fun _ _ _ => rfl⟩

/-- The draws only grow, so a sequence without a draw has none in either part. -/
theorem bind {α β : Type} {m : Reading α} {k : α → Reading β} (hm : m.Local) (hk : ∀ a, (k a).Local) :
    (m >>= k).Local := by
  refine ⟨hm.tidy.bind fun a => (hk a).tidy, fun p q hdraws => ?_⟩
  rw [Reading.bind_apply] at hdraws
  have hfirst : (m p).2 = p := (hm.tidy p).eq_of_draws (hdraws ▸ ((hk _).tidy _).draws_le)
  rw [hfirst] at hdraws
  rw [Reading.bind_apply, Reading.bind_apply, hm.same p q (congrArg Port.draws hfirst), hfirst]
  exact (hk _).same p q hdraws

theorem ite {α : Type} {c : Prop} [Decidable c] {m k : Reading α} (hm : m.Local) (hk : k.Local) :
    (if c then m else k).Local := by split <;> assumption

/-- A choice followed by one continuation, as `do` writes an optional read. -/
theorem ite_bind {α β : Type} {c : Prop} [Decidable c] {m k : Reading α} {next : α → Reading β} (hm : m.Local)
    (hk : k.Local) (hnext : ∀ a, (next a).Local) : (if c then m >>= next else k >>= next).Local :=
  ite (bind hm hnext) (bind hk hnext)

theorem get (f : FrameBuf) (i : Nat) : (f.get i).Local := by
  refine ⟨f.get_tidy i, fun p q hdraws => ?_⟩
  by_cases hin : i < 188
  · rw [f.get_inside hin, f.get_inside hin]
  · rw [f.get_outside (by omega)] at hdraws
    exact absurd hdraws (Nat.succ_ne_self _)

theorem stamp (f : FrameBuf) (a : Nat) : (f.stamp a).Local :=
  bind (get f _) fun _ => bind (get f _) fun _ => bind (get f _) fun _ => bind (get f _) fun _ =>
    bind (get f _) fun _ => pure _

theorem pesExtension (f : FrameBuf) (p : Nat) (h : PesRegs) : (f.pesExtension p h).Local :=
  bind (get f _) fun _ => bind (get f _) fun _ => bind (get f _) fun _ =>
    ite_bind (stamp f _) (pure _) fun _ => ite_bind (stamp f _) (pure _) fun _ => pure _

theorem pesParse (f : FrameBuf) (p : Nat) : (f.pesParse p).Local :=
  bind (get f _) fun _ => bind (get f _) fun _ => bind (get f _) fun _ => ite (pure _) <|
    bind (get f _) fun _ => bind (get f _) fun _ => bind (get f _) fun _ => ite (pure _) <|
      pesExtension f _ _

end Reading.Local

/-! ### The parsed sets -/

theorem exec_tsparse_ts {s t : State} (h : exec .tsparse s = .next t) :
    t.ts = (s.frame.tsParse s.params.syncByte s.port).1.1 := by
  cases h
  rfl

theorem exec_afparse_af {s t : State} (h : exec .afparse s = .next t) :
    t.af = (s.frame.afParse s.ts.afc s.port).1.1 := by
  cases h
  rfl

theorem exec_pesparse_inside {s t : State} {off : Byte} (hoff : off.toNat ≤ 187)
    (h : exec (.pesparse off) s = .next t) :
    t.pes = (s.frame.pesParse off.toNat s.port).1.1 ∧ t.port = (s.frame.pesParse off.toNat s.port).2 := by
  have hrun : exec (.pesparse off) s = complete (pesBody off.toNat s) := if_pos (Nat.lt_succ_of_le hoff)
  cases hrun.symm.trans h
  exact ⟨rfl, rfl⟩

/-- TSPARSE reads inside the frame. -/
theorem tsParse_value (f : FrameBuf) (sync : Byte) (p q : Port) : (f.tsParse sync p).1 = (f.tsParse sync q).1 := by
  rw [f.tsParse_apply, f.tsParse_apply]

/-- AFPARSE's one possible draw does not enter the AF set (41_adaptation_field.md R168). -/
theorem afParse_value (f : FrameBuf) (c : BitVec 2) (p q : Port) : (f.afParse c p).1 = (f.afParse c q).1 := by
  by_cases hc : Claims.HasField c
  · by_cases hlong : Claims.TooLong f c
    · rw [afParse_tooLong hlong, afParse_tooLong hlong]
    · rw [afParse_field hc hlong, afParse_field hc hlong]
  · rw [afParse_noField f hc, afParse_noField f hc]

/-- The same parse from two states that agree on its inputs, without a draw in the first, leaves the same set. -/
theorem parse_same {s s' t t' : State} {i : Instr}
    (hi : i = .tsparse ∨ i = .afparse ∨ (∃ p : Byte, p.toNat ≤ 187 ∧ i = .pesparse p))
    (hframe : s'.frame = s.frame) (hparams : s'.params = s.params) (hafc : i = .afparse → s'.ts.afc = s.ts.afc)
    (h : exec i s = .next t) (hdraws : t.port.draws = s.port.draws) (h' : exec i s' = .next t') :
    (i = .tsparse → t'.ts = t.ts) ∧ (i = .afparse → t'.af = t.af) ∧
      (i ≠ .tsparse → i ≠ .afparse → t'.pes = t.pes) := by
  obtain rfl | rfl | ⟨off, hoff, rfl⟩ := hi
  · refine ⟨fun _ => ?_, nofun, fun hne => absurd rfl hne⟩
    rw [exec_tsparse_ts h, exec_tsparse_ts h', hframe, hparams, tsParse_value]
  · refine ⟨nofun, fun _ => ?_, fun _ hne => absurd rfl hne⟩
    rw [exec_afparse_af h, exec_afparse_af h', hframe, hafc rfl, afParse_value]
  · refine ⟨nofun, nofun, fun _ _ => ?_⟩
    obtain ⟨hpes, hport⟩ := exec_pesparse_inside hoff h
    rw [hport] at hdraws
    rw [hpes, (exec_pesparse_inside hoff h').1, hframe, (Reading.Local.pesParse _ _).same _ s'.port hdraws]

/-- Settles O45: `parse_same`, for the second part from the state CLEAR leaves, where the frame, the parameters and,
but for mask bit 0, the TS set are as before. -/
theorem parseAfterClearSame : Obligations.ParseAfterClearSame := by
  intro s s' t t' u m i hi hframe hparams h hdraws
  refine ⟨fun h' hafc => parse_same hi hframe hparams hafc h hdraws h', fun hclear h' hmask => ?_⟩
  cases (execClear_eq m s).symm.trans hclear
  refine parse_same hi ?_ ?_ (fun hparse => ?_) h hdraws h'
  · rfl
  · rfl
  · simp only [hmask hparse, Bool.false_eq_true, if_false]

end Sys2Proof.Machine
end

section
/-! SUPPORT. The whole machine: what each command leaves unchanged and which command writes what (10_state.md
sections 2 to 6), that RESULT is no input (60_exceptions.md R324), the sticky flags (R323), and who writes the frame
buffer (20_memory.md R68). -/

namespace Sys2Proof.Machine

open Sys2Proof.Claims

/-! ### RESULT is no input -/

/-- FRAME's stages are the same from both states, so it ends at the same one. -/
theorem frameBody_resultBlind : ResultBlind frameBody := by
  intro s r
  by_cases hts : (tsBody s).2.code = .ok
  · by_cases haf : (afBody (tsBody s).1).2.code = .ok
    · rw [frameBody_parsed hts haf, ← absorbBody_resultBlind]
      exact frameBody_parsed (s := s.finish r) hts haf
    · rw [frameBody_afFailed hts haf]
      exact frameBody_afFailed (s := s.finish r) hts haf
  · rw [frameBody_tsFailed hts]
    exact frameBody_tsFailed (s := s.finish r) hts

/-- Every command but NOP gives the same next state whatever RESULT held. -/
theorem exec_finish {i : Instr} (hi : i ≠ .nop) (s : State) (r : Result) : exec i (s.finish r) = exec i s := by
  cases i with
  | nop => exact absurd rfl hi
  | pesparse off =>
    rcases execPesparse_cases off s with ⟨hin, hrun⟩ | ⟨hout, hrun⟩
    · exact (if_pos hin).trans hrun.symm
    · exact (if_neg (Nat.not_lt.2 hout)).trans hrun.symm
  | absorb => exact absorbBody_resultBlind.complete_finish s r
  | frame => exact frameBody_resultBlind.complete_finish s r
  | clear mask => exact (execClear_eq mask (s.finish r)).trans (execClear_eq mask s).symm
  | init _ | tsparse | afparse | afstuff => rfl

/-- Settles O49: NOP keeps the RESULT it gets; every other command by `exec_finish`. -/
theorem resultIsNoInput : Obligations.ResultIsNoInput := by
  intro i s r
  by_cases hi : i = .nop
  · subst hi
    exact ⟨s, rfl, rfl⟩
  · obtain ⟨t, ht⟩ := exec_completes i s
    refine ⟨t, ht, ?_⟩
    rw [if_neg hi, ← ht]
    exact exec_finish hi s r

/-! ### What each command leaves unchanged -/

section

variable {s t : State}

theorem exec_pesparse_state {off : Byte} (h : exec (.pesparse off) s = .next t) :
    t = { s with pes := t.pes, port := t.port, result := t.result } := by
  rcases execPesparse_cases off s with ⟨-, hrun⟩ | ⟨-, hrun⟩ <;> cases hrun.symm.trans h
  · rfl
  · rfl

theorem exec_absorb_state (h : exec .absorb s = .next t) :
    t = { s with
      asm := t.asm, pes := t.pes, pesBuf := { s.pesBuf with cells := t.pesBuf.cells }, ovf := t.ovf, port := t.port
      result := t.result } := by
  cases h
  exact congrArg (State.finish · (absorbBody s).2) (absorbBody_absorbFrame s).state

theorem exec_frame_state (h : exec .frame s = .next t) :
    t = { s with
      ts := t.ts, af := t.af, asm := t.asm, pes := t.pes, pesBuf := { s.pesBuf with cells := t.pesBuf.cells }
      ovf := t.ovf, port := t.port, result := t.result } := by
  cases h
  exact congrArg (State.finish · (frameBody s).2) (frameBody_row s).state

theorem exec_clear_state {m : Byte} (h : exec (.clear m) s = .next t) :
    t =
      { s with
        ts := if m.getLsbD 0 then TsRegs.zero else s.ts
        af := if m.getLsbD 1 then AfRegs.zero else s.af
        pes := if m.getLsbD 2 then PesRegs.zero else s.pes
        port := { s.port with oob := if m.getLsbD 3 then false else s.port.oob }
        ovf := if m.getLsbD 3 then false else s.ovf
        result := ⟨.ok, 0⟩ } :=
  Host.Outcome.next.inj (h.symm.trans (execClear_eq m s))

end

/-- What no command writes: the frame, the parameters, the host's side and the buffer's reset number. -/
structure OutsideKept (s t : State) : Prop where
  frame : t.frame = s.frame
  params : t.params = s.params
  hostQueue : t.hostQueue = s.hostQueue
  busData : t.busData = s.busData
  inReset : t.inReset = s.inReset
  epoch : t.pesBuf.epoch = s.pesBuf.epoch

section

variable {i : Instr} {s t : State} (h : exec i s = .next t)
include h

theorem exec_outsideKept : OutsideKept s t := by
  cases i with
  | pesparse off =>
    rw [exec_pesparse_state h]
    exact ⟨rfl, rfl, rfl, rfl, rfl, rfl⟩
  | absorb =>
    rw [exec_absorb_state h]
    exact ⟨rfl, rfl, rfl, rfl, rfl, rfl⟩
  | frame =>
    rw [exec_frame_state h]
    exact ⟨rfl, rfl, rfl, rfl, rfl, rfl⟩
  | clear m =>
    rw [exec_clear_state h]
    exact ⟨rfl, rfl, rfl, rfl, rfl, rfl⟩
  | nop | init _ | tsparse | afparse | afstuff =>
    cases h
    exact ⟨rfl, rfl, rfl, rfl, rfl, rfl⟩

/-! ### The writers of each set -/

theorem exec_ts_writer (hne : t.ts ≠ s.ts) :
    i = .tsparse ∨ i = .frame ∨ ∃ m : Byte, m.getLsbD 0 = true ∧ i = .clear m := by
  cases i with
  | tsparse => exact .inl rfl
  | frame => exact .inr (.inl rfl)
  | clear m =>
    rw [exec_clear_state h] at hne
    exact .inr (.inr ⟨m, by_contra fun hm => hne (if_neg hm), rfl⟩)
  | pesparse off => exact absurd (congrArg State.ts (exec_pesparse_state h)) hne
  | absorb => exact absurd (congrArg State.ts (exec_absorb_state h)) hne
  | nop | init _ | afparse | afstuff =>
    cases h
    exact absurd rfl hne

theorem exec_af_writer (hne : t.af ≠ s.af) :
    i = .afparse ∨ i = .afstuff ∨ i = .frame ∨ ∃ m : Byte, m.getLsbD 1 = true ∧ i = .clear m := by
  cases i with
  | afparse => exact .inl rfl
  | afstuff => exact .inr (.inl rfl)
  | frame => exact .inr (.inr (.inl rfl))
  | clear m =>
    rw [exec_clear_state h] at hne
    exact .inr (.inr (.inr ⟨m, by_contra fun hm => hne (if_neg hm), rfl⟩))
  | pesparse off => exact absurd (congrArg State.af (exec_pesparse_state h)) hne
  | absorb => exact absurd (congrArg State.af (exec_absorb_state h)) hne
  | nop | init _ | tsparse =>
    cases h
    exact absurd rfl hne

theorem exec_afstuff_af (hi : i = .afstuff) : t.af = { s.af with stuff := t.af.stuff } := by
  subst hi
  cases h
  rfl

theorem exec_pes_writer (hne : t.pes ≠ s.pes) :
    (∃ p, i = .pesparse p) ∨ i = .absorb ∨ i = .frame ∨ (∃ m : Byte, m.getLsbD 2 = true ∧ i = .clear m) ∨
      ∃ pid, i = .init pid := by
  cases i with
  | pesparse off => exact .inl ⟨off, rfl⟩
  | absorb => exact .inr (.inl rfl)
  | frame => exact .inr (.inr (.inl rfl))
  | clear m =>
    rw [exec_clear_state h] at hne
    exact .inr (.inr (.inr (.inl ⟨m, by_contra fun hm => hne (if_neg hm), rfl⟩)))
  | init pid => exact .inr (.inr (.inr (.inr ⟨pid, rfl⟩)))
  | nop | tsparse | afparse | afstuff =>
    cases h
    exact absurd rfl hne

theorem exec_pesBuf_writer (hne : t.pesBuf.cells ≠ s.pesBuf.cells) : i = .absorb ∨ i = .frame := by
  cases i with
  | absorb => exact .inl rfl
  | frame => exact .inr rfl
  | clear m => exact absurd (congrArg (·.pesBuf.cells) (exec_clear_state h)) hne
  | pesparse off => exact absurd (congrArg (·.pesBuf.cells) (exec_pesparse_state h)) hne
  | nop | init _ | tsparse | afparse | afstuff =>
    cases h
    exact absurd rfl hne

theorem exec_result_writer (hne : t.result ≠ s.result) : i ≠ .nop := by
  rintro rfl
  cases h
  exact hne rfl

end

/-- Settles O46: the common frame of the commands, and the writers set by set. -/
theorem registerSetWriters : Obligations.RegisterSetWriters := by
  intro i s
  obtain ⟨t, h⟩ := exec_completes i s
  obtain ⟨hframe, hparams, hqueue, hdata, hreset, hepoch⟩ := exec_outsideKept h
  exact ⟨t, h, hframe, hparams, hqueue, hdata, hreset, hepoch, exec_ts_writer h, exec_af_writer h, exec_afstuff_af h,
    exec_pes_writer h, exec_pesBuf_writer h, exec_result_writer h⟩

/-! ### The sticky flags -/

theorem tsBody_code_ne_bufferOverflow (s : State) : (tsBody s).2.code ≠ .bufferOverflow := by
  by_cases hsync : s.frame.byte 0 = s.params.syncByte
  · simp [tsBody_sync hsync]
  · simp [tsBody_badSync hsync]

theorem afBody_code_ne_bufferOverflow (s : State) : (afBody s).2.code ≠ .bufferOverflow := by
  by_cases hlong : TooLong s.frame s.ts.afc
  · simp [afBody_tooLong hlong]
  · simp [afBody_code_ok hlong]

theorem pesResultRef_code_ne_bufferOverflow (f : FrameBuf) (d p : Nat) :
    (pesResultRef f d p).code ≠ .bufferOverflow := by
  unfold pesResultRef
  split <;> simp

/-- A command that keeps STATUS.OVF and reports another code than BUFFER_OVERFLOW. -/
theorem ovf_iff_of_kept {s t : State} (hovf : t.ovf = s.ovf) (hcode : t.result.code ≠ .bufferOverflow) :
    t.ovf = true ↔ s.ovf = true ∨ t.result.code = .bufferOverflow := by
  rw [hovf, or_iff_left hcode]

section

variable {i : Instr} {s t : State} (h : exec i s = .next t) (hclear : ∀ m, i ≠ .clear m)
include h hclear

/-- No command but CLEAR changes the port except by draws (20_memory.md R70). -/
theorem exec_port_reaches : s.port.Reaches t.port := by
  cases i with
  | pesparse off =>
    rcases execPesparse_cases off s with ⟨-, hrun⟩ | ⟨-, hrun⟩ <;> cases hrun.symm.trans h
    · exact pesBody_port off.toNat s
    · exact .refl _
  | clear m => exact absurd rfl (hclear m)
  | tsparse => cases h; exact s.frame.tsParse_tidy _ _
  | afparse => cases h; exact afBody_port s
  | afstuff => cases h; exact stuffBody_port s
  | absorb => cases h; exact (absorbBody_absorbFrame s).port
  | frame => cases h; exact (frameBody_row s).port_reaches
  | nop | init _ => cases h; exact .refl _

/-- No command but CLEAR clears STATUS.OVF, and only BUFFER_OVERFLOW sets it (43_pes_assembler.md R259). -/
theorem exec_ovf_iff (hnop : i ≠ .nop) : t.ovf = true ↔ s.ovf = true ∨ t.result.code = .bufferOverflow := by
  cases i with
  | nop => exact absurd rfl hnop
  | clear m => exact absurd rfl (hclear m)
  | pesparse off =>
    have hovf := congrArg State.ovf (exec_pesparse_state h)
    refine ovf_iff_of_kept hovf ?_
    rcases execPesparse_cases off s with ⟨hin, hrun⟩ | ⟨-, hrun⟩ <;> cases hrun.symm.trans h
    · rw [pesBody_eq s hin.le]
      exact pesResultRef_code_ne_bufferOverflow _ _ _
    · simp
  | init pid => cases h; exact ovf_iff_of_kept rfl (by simp)
  | tsparse => cases h; exact ovf_iff_of_kept rfl (tsBody_code_ne_bufferOverflow s)
  | afparse => cases h; exact ovf_iff_of_kept rfl (afBody_code_ne_bufferOverflow s)
  | afstuff => cases h; exact ovf_iff_of_kept rfl (by simp [stuffBody])
  | absorb => cases h; exact (absorbBody_row s).ovf_iff
  | frame => cases h; exact (frameBody_row s).ovf_iff

end

/-- CLEAR with IMM8[3] = 1 (44_frame_and_control.md R300). -/
def ClearsFlags (i : Instr) : Prop := ∃ m : Byte, m.getLsbD 3 = true ∧ i = .clear m

theorem clearsFlags_clear (m : Byte) : ClearsFlags (.clear m) ↔ m.getLsbD 3 = true := by
  simp [ClearsFlags]

theorem not_clearsFlags {i : Instr} (hclear : ∀ m, i ≠ .clear m) : ¬ClearsFlags i :=
  fun ⟨m, _, hi⟩ => hclear m hi

section

variable {i : Instr} {s t : State} (h : exec i s = .next t)
include h

theorem exec_oob :
    s.port.draws ≤ t.port.draws ∧
      (t.port.oob = true ↔ s.port.draws < t.port.draws ∨ (s.port.oob = true ∧ ¬ClearsFlags i)) := by
  by_cases hclear : ∃ m, i = .clear m
  · obtain ⟨m, rfl⟩ := hclear
    rw [exec_clear_state h, clearsFlags_clear]
    cases m.getLsbD 3 <;> simp
  · rw [not_exists] at hclear
    rcases exec_port_reaches h hclear with heq | ⟨hoob, hlt⟩
    · simp [heq, not_clearsFlags hclear]
    · exact ⟨hlt.le, iff_of_true hoob (.inl hlt)⟩

theorem exec_ovf :
    t.ovf = true ↔
      (i ≠ .nop ∧ t.result.code = .bufferOverflow) ∨ (s.ovf = true ∧ ¬ClearsFlags i) := by
  by_cases hclear : ∃ m, i = .clear m
  · obtain ⟨m, rfl⟩ := hclear
    rw [exec_clear_state h, clearsFlags_clear]
    cases m.getLsbD 3 <;> simp
  · rw [not_exists] at hclear
    by_cases hnop : i = .nop
    · subst hnop
      cases h
      simp [not_clearsFlags hclear]
    · rw [exec_ovf_iff h hclear hnop, or_comm]
      simp [hnop, not_clearsFlags hclear]

end

theorem not_cleared_of_kept {s t : State} (hoob : s.port.oob = true → t.port.oob = true)
    (hovf : s.ovf = true → t.ovf = true) :
    ¬((s.port.oob = true ∧ t.port.oob = false) ∨ (s.ovf = true ∧ t.ovf = false)) := by
  rintro (⟨hset, hclear⟩ | ⟨hset, hclear⟩)
  · exact absurd ((hoob hset).symm.trans hclear) (by decide)
  · exact absurd ((hovf hset).symm.trans hclear) (by decide)

/-- A word whose run clears a flag is a CLEAR with IMM8[3] = 1. -/
theorem runCommand_clears {w : Word} {s t : State} (h : runCommand w s = .next t)
    (hcleared : (s.port.oob = true ∧ t.port.oob = false) ∨ (s.ovf = true ∧ t.ovf = false)) :
    ∃ m : Byte, decode w = .ok (.clear m) ∧ m.getLsbD 3 = true := by
  rcases runCommand_cases h with ⟨i, hdecode, hrun⟩ | rfl
  · by_cases hclears : ClearsFlags i
    · obtain ⟨m, hm, rfl⟩ := hclears
      exact ⟨m, hdecode, hm⟩
    · refine absurd hcleared (not_cleared_of_kept (fun hset => ?_) fun hset => ?_)
      · exact (exec_oob hrun).2.2 (.inr ⟨hset, hclears⟩)
      · exact (exec_ovf hrun).2 (.inr ⟨hset, hclears⟩)
  · exact absurd hcleared (not_cleared_of_kept id id)

/-- Settles O50: the commands by `exec_oob` and `exec_ovf`; among the steps only a CMD write and the release of reset
touch a flag, a CMD write by `runCommand_clears`. -/
theorem stickyFlags : Obligations.StickyFlags := by
  refine ⟨fun i s t h => ⟨(exec_oob h).1, (exec_oob h).2, exec_ovf h⟩, fun s t hstep hcleared => ?_⟩
  rcases step_cases hstep with ⟨-, rfl⟩ | ⟨_, _, _, -, -, -, rfl⟩ | ⟨w, rest, hr, hq, hrun⟩ |
    ⟨_, _, _, _, -, -, -, -, rfl⟩ | ⟨_, _, -, rfl⟩ | ⟨_, -, rfl⟩ | ⟨rest, hr, hq, -⟩
  · exact absurd hcleared (not_cleared_of_kept id id)
  · exact absurd hcleared (not_cleared_of_kept id id)
  · obtain ⟨m, hdecode, hm⟩ := runCommand_clears hrun hcleared
    exact .inl ⟨w, rest, m, ⟨hr, hq⟩, hdecode, hm⟩
  · exact absurd hcleared (not_cleared_of_kept id id)
  · exact absurd hcleared (not_cleared_of_kept id id)
  · exact absurd hcleared (not_cleared_of_kept id id)
  · exact .inr ⟨hr, rest, hq⟩

/-! ### The frame buffer -/

theorem runCommand_frame {w : Word} {s t : State} (h : runCommand w s = .next t) : t.frame = s.frame := by
  rcases runCommand_cases h with ⟨i, -, hrun⟩ | rfl
  · exact (exec_outsideKept hrun).frame
  · rfl

/-- Settles O51: no command writes the frame buffer, and a FRAME write only its word's bytes. -/
theorem frameBufferWriters : Obligations.FrameBufferWriters := by
  intro s t hstep hne
  rcases step_cases hstep with ⟨-, rfl⟩ | ⟨_, _, _, -, -, -, rfl⟩ | ⟨w, rest, -, -, hrun⟩ |
    ⟨a, w, rest, k, -, hk, ha, hq, rfl⟩ | ⟨_, _, -, rfl⟩ | ⟨_, -, rfl⟩ | ⟨rest, hr, hq, -⟩
  · exact absurd rfl hne
  · exact absurd rfl hne
  · exact absurd (runCommand_frame hrun) hne
  · exact .inr ⟨a, w, rest, k, hq, hk, ha, fun i hi => (writeFrameWord_byte _ k w i).trans (if_neg hi)⟩
  · exact absurd rfl hne
  · exact absurd rfl hne
  · exact .inl ⟨hr, rest, hq⟩

end Sys2Proof.Machine
end
